-- ==== Sys2Proof/Word.lean ====
section
/-! DEFINITION. The plain data the hardware handles: bytes, frames, seven-byte buffers, line segments and
symbols, control codes, and the three layers of code words. -/

namespace Sys2Proof

abbrev Byte := BitVec 8
abbrev Nibble := BitVec 4

/-- A frame value `F` (R11, R21): counter 4 bits, control code 4, rolling code 16, sender address 24. -/
@[ext]
structure Frame where
  counter : Nibble
  control : Nibble
  rolling : BitVec 16
  address : BitVec 24
  deriving DecidableEq, Repr

/-- Seven bytes, byte 0 first (R9, R50): a plain buffer (R73), a payload (R76) or the register `PB` (R23). -/
@[ext]
structure Buf where
  b0 : Byte
  b1 : Byte
  b2 : Byte
  b3 : Byte
  b4 : Byte
  b5 : Byte
  b6 : Byte
  deriving DecidableEq, Repr

/-- One segment of the pulse program (R13, R144): a line level (true is high) held for a number of microseconds. -/
@[ext]
structure Segment where
  level : Bool
  duration : Nat
  deriving DecidableEq, Repr

/-- The symbol alphabet of the line (R81). -/
inductive Symbol
  | wake | hw | sw | bit1 | bit0 | gap
  deriving DecidableEq, Repr

/-- One call of the document's transmit capability (R143, R173). -/
inductive LineCall
  | setHigh | setLow | delay (d : Nat)
  deriving DecidableEq, Repr

/-- The nine defined control codes (R77). -/
inductive ControlCode
  | my | up | myUp | down | myDown | upDown | program | sunFlag | flag
  deriving DecidableEq, Repr

/-- The one synchronous exception (R180). -/
inductive BlockException
  | invalidChecksum
  deriving DecidableEq, Repr

/-- A code word of one of the three layers of encoding of `30_encoding.md`: a command (R70), the plain buffer of
a wire frame as a 56-bit vector (R73, R9), or the pulses of a line symbol (R81). -/
inductive CodeWord
  | command (w : BitVec 59)
  | plain (w : BitVec 56)
  | pulses (segments : List Segment)
  deriving DecidableEq, Repr

/-- Why a code word decodes to no instruction. No command word is ever rejected (R71, R80). -/
inductive DecodeError
  /-- A 56-bit word whose first nibble is not the constant 0xA of R73. -/
  | notAPlainBuffer
  /-- Pulses that are no symbol of R81. -/
  | notASymbol
  deriving DecidableEq, Repr

end Sys2Proof
end

