-- ==== Sys2Proof/Machine/Codec.lean ====
section
/-! DEFINITION. The codec of `41_codec.md`: the frame's layout, the checksum, the byte scrambler, and the pure
functions Serialize and Deserialize; and the 56-bit vector view of a buffer (R9). -/

namespace Sys2Proof

/-- Byte `i` of a buffer. Every rule uses the constants 0 to 6 only (R50). -/
def Buf.byte (B : Buf) : Nat → Byte
  | 0 => B.b0
  | 1 => B.b1
  | 2 => B.b2
  | 3 => B.b3
  | 4 => B.b4
  | 5 => B.b5
  | 6 => B.b6
  | _ => 0#8

/-- The bytes in index order. -/
def Buf.bytes (B : Buf) : List Byte := [B.b0, B.b1, B.b2, B.b3, B.b4, B.b5, B.b6]

/-- Bytewise exclusive or of two buffers (R114, R123). -/
def Buf.xor (X Y : Buf) : Buf :=
  ⟨X.b0 ^^^ Y.b0, X.b1 ^^^ Y.b1, X.b2 ^^^ Y.b2, X.b3 ^^^ Y.b3, X.b4 ^^^ Y.b4, X.b5 ^^^ Y.b5, X.b6 ^^^ Y.b6⟩

/-- `P[0] ‖ P[1] ‖ ... ‖ P[6]`: byte 0 in bits 55:48 (R9, R55). -/
def Buf.vec (P : Buf) : BitVec 56 := P.b0 ++ P.b1 ++ P.b2 ++ P.b3 ++ P.b4 ++ P.b5 ++ P.b6

/-- `P[i] = p[55 - 8i : 48 - 8i]` (R118). -/
def Buf.ofVec (p : BitVec 56) : Buf where
  b0 := p.extractLsb' 48 8
  b1 := p.extractLsb' 40 8
  b2 := p.extractLsb' 32 8
  b3 := p.extractLsb' 24 8
  b4 := p.extractLsb' 16 8
  b5 := p.extractLsb' 8 8
  b6 := p.extractLsb' 0 8

/-- `wbit(P, n)`: the bits in the order sent, byte 0 first, most significant bit first (R9, R54). -/
def wbit (P : Buf) (n : Nat) : Bool := (P.byte (n / 8)).getLsbD (7 - n % 8)

/-- The high nibble `B[7:4]` of a byte (R55). -/
def hiNibble (b : Byte) : Nibble := b.extractLsb' 4 4

/-- The low nibble `B[3:0]` of a byte (R55). -/
def loNibble (b : Byte) : Nibble := b.extractLsb' 0 4

/-- `Checksum(B)` (R110): every byte and its own value shifted right by 4, accumulated by exclusive or, the low
nibble of the sum. -/
def checksum (B : Buf) : Nibble :=
  ((B.bytes.foldl (fun (acc b : Byte) => acc ^^^ b ^^^ (b >>> (4 : Nat))) 0#8) &&& 0x0F#8).setWidth 4

/-- `Obfuscate(B)` (R112): ascending and in place, so each byte meets the already obfuscated one before it
(`90_conflicts.md` C1). -/
def obfuscate (B : Buf) : Buf :=
  let p0 := B.b0
  let p1 := B.b1 ^^^ p0
  let p2 := B.b2 ^^^ p1
  let p3 := B.b3 ^^^ p2
  let p4 := B.b4 ^^^ p3
  let p5 := B.b5 ^^^ p4
  let p6 := B.b6 ^^^ p5
  ⟨p0, p1, p2, p3, p4, p5, p6⟩

/-- `Deobfuscate(P)` (R113): descending and in place, so each byte meets the received one before it. -/
def deobfuscate (P : Buf) : Buf :=
  ⟨P.b0, P.b1 ^^^ P.b0, P.b2 ^^^ P.b1, P.b3 ^^^ P.b2, P.b4 ^^^ P.b3, P.b5 ^^^ P.b4, P.b6 ^^^ P.b5⟩

/-- Field assembly of a plain buffer with checksum nibble `cks` (R73, R74). -/
def layout (F : Frame) (cks : Nibble) : Buf where
  b0 := 0xA0#8 ||| F.counter.setWidth 8
  b1 := (F.control.setWidth 8 <<< 4) ||| cks.setWidth 8
  b2 := F.rolling.extractLsb' 8 8
  b3 := F.rolling.extractLsb' 0 8
  b4 := F.address.extractLsb' 0 8
  b5 := F.address.extractLsb' 8 8
  b6 := F.address.extractLsb' 16 8

/-- Field extraction (R74): it ignores `B[0][7:4]` and `B[1][3:0]`. -/
def extract (B : Buf) : Frame where
  counter := loNibble B.b0
  control := hiNibble B.b1
  rolling := B.b2 ++ B.b3
  address := B.b6 ++ B.b5 ++ B.b4

/-- The checksum nibble Serialize puts into a frame: over the layout with a zero checksum nibble (R115). -/
def frameChecksum (F : Frame) : Nibble := checksum (layout F 0#4)

/-- The plain buffer of a frame, its checksum in place (R73, R75). -/
def plainBuffer (F : Frame) : Buf :=
  let B := layout F 0#4
  { B with b1 := B.b1 ||| (checksum B).setWidth 8 }

/-- `Serialize(F)` (R115): layout, checksum, insertion, obfuscation, in that order. -/
def serialize (F : Frame) : Buf := obfuscate (plainBuffer F)

/-- `Deserialize(P)` (R117). Nothing but the checksum is tested (R120). -/
def deserialize (P : Buf) : Except BlockException Frame :=
  let B := deobfuscate P
  if checksum B = 0#4 then .ok (extract B) else .error .invalidChecksum

end Sys2Proof
end

