-- ==== Sys2Proof/Machine/Operands.lean ====
section
/-! DEFINITION. The operand forms of the command word (R70, R72) and the truncations the SET commands make. -/

namespace Sys2Proof

/-- A command word `cmd_op[2:0] ‖ cmd_arg[55:0]` (R70). -/
def commandWord (op : BitVec 3) (arg : BitVec 56) : BitVec 59 := op ++ arg

/-- `cmd_op`: bits 58:56 of the word (R70). -/
def cmdOp (w : BitVec 59) : BitVec 3 := w.extractLsb' 56 3

/-- `cmd_arg`: the other 56 bits (R70). -/
def cmdArg (w : BitVec 59) : BitVec 56 := w.extractLsb' 0 56

/-- Format S: `v = cmd_arg[31:0]`; bits 55:32 are ignored (R72). -/
def operandS (arg : BitVec 56) : BitVec 32 := arg.extractLsb' 0 32

/-- The argument that carries a format S operand, its ignored bits zero (R72). -/
def argS (v : BitVec 32) : BitVec 56 := v.setWidth 56

/-- `trunc_4` (R10, R101, R102). -/
def trunc4 (v : BitVec 32) : BitVec 4 := v.extractLsb' 0 4

/-- `trunc_16` (R10, R103). -/
def trunc16 (v : BitVec 32) : BitVec 16 := v.extractLsb' 0 16

/-- `trunc_24` (R10, R104). -/
def trunc24 (v : BitVec 32) : BitVec 24 := v.extractLsb' 0 24

/-- The values of the nine defined control codes (R77). -/
def ControlCode.value : ControlCode → Nibble
  | .my => 1#4
  | .up => 2#4
  | .myUp => 3#4
  | .down => 4#4
  | .myDown => 5#4
  | .upDown => 6#4
  | .program => 8#4
  | .sunFlag => 9#4
  | .flag => 10#4

end Sys2Proof
end

