-- ==== Sys2Proof/Machine/Pulse.lean ====
section
/-! DEFINITION. The Manchester encoder (`42_manchester_encoder.md`) and the pulse program
(`43_pulse_formatter.md`), in its three forms: the table of 756 segments (R142), the procedure of primitive calls
(R143) and the string of symbols (R82). -/

namespace Sys2Proof

/-! The constants of R141, in microseconds or counts. -/

def tWakeH : Nat := 10000
def tWakeL : Nat := 38000
def tHw : Nat := 2500
def nHwFirst : Nat := 2
def nHwRepeat : Nat := 6
def tSwH : Nat := 4800
def tHalf : Nat := 640
def tSym : Nat := 1280
def nBits : Nat := 56
def tGap : Nat := 34000
def nRepeats : Nat := 5
def nFrames : Nat := 6
/-- The number of segments of the pulse program (R142). -/
def nSegments : Nat := 756
/-- The ticks of one transmission (R151). -/
def tTotal : Nat := 874720

/-- `manch(b, h)` (R131), `h` false for the first half: high exactly when the bit equals the half. -/
def manch (b h : Bool) : Bool := b == h

/-- The segments of each symbol (R81). -/
def Symbol.segments : Symbol → List Segment
  | .wake => [⟨true, tWakeH⟩, ⟨false, tWakeL⟩]
  | .hw => [⟨true, tHw⟩, ⟨false, tHw⟩]
  | .sw => [⟨true, tSwH⟩, ⟨false, tHalf⟩]
  | .bit1 => [⟨false, tHalf⟩, ⟨true, tHalf⟩]
  | .bit0 => [⟨true, tHalf⟩, ⟨false, tHalf⟩]
  | .gap => [⟨false, tGap⟩]

/-- The symbol of a payload bit (R81, R131). -/
def bitSymbol (b : Bool) : Symbol := if b then .bit1 else .bit0

/-! The table of segments (R142). A frame's rows are the same in every frame but for the number of its
hardware-sync rows: 4 in frame 0, 12 in frames 1 to 5. Frame 0 begins at row 2; frame `r` at row
`b = 121 + 127 (r - 1)` and time `T = 169120 + 141120 (r - 1)`. -/

/-- A row of a payload: half-bit segment `q` (R133). -/
def payloadSegment (P : Buf) (q : Nat) : Segment :=
  ⟨manch (wbit P (q / 2)) (q % 2 == 1), tHalf⟩

/-- Row `j` of a frame with `h` hardware-sync rows (R142): hardware sync, software sync, payload, gap. -/
def frameSegment (P : Buf) (h j : Nat) : Segment :=
  if j < h then ⟨j % 2 == 0, tHw⟩
  else if j = h then ⟨true, tSwH⟩
  else if j = h + 1 then ⟨false, tHalf⟩
  else if j < h + 114 then payloadSegment P (j - (h + 2))
  else ⟨false, tGap⟩

/-- Where row `j` of such a frame starts, counted from the frame's start (R142). -/
def frameOffset (h j : Nat) : Nat :=
  if j ≤ h then 2500 * j
  else if j = h + 1 then 2500 * h + 4800
  else 2500 * h + 5440 + 640 * (j - (h + 2))

/-- `seg(P, s)` (R142). The table has 756 rows; past its end there is none, and the entry here is never reached
(log 9). -/
def segAt (P : Buf) (s : Nat) : Segment :=
  if s = 0 then ⟨true, tWakeH⟩
  else if s = 1 then ⟨false, tWakeL⟩
  else if s < 121 then frameSegment P 4 (s - 2)
  else if s < 756 then frameSegment P 12 ((s - 121) % 127)
  else ⟨false, 0⟩

/-- The start time of segment `s`, the last column of R142. -/
def segStart (s : Nat) : Nat :=
  if s = 0 then 0
  else if s = 1 then 10000
  else if s < 121 then 48000 + frameOffset 4 (s - 2)
  else if s < 756 then 169120 + 141120 * ((s - 121) / 127) + frameOffset 12 ((s - 121) % 127)
  else tTotal

/-- All segments of a transmission, in order. -/
def segments (P : Buf) : List Segment := (List.range nSegments).map (segAt P)

/-! The string of symbols (R82). -/

/-- The 56 symbols of the payload, in wire order (R82, R54). -/
def payloadSymbols (P : Buf) : List Symbol := (List.range nBits).map fun n => bitSymbol (wbit P n)

/-- One frame on the line: its hardware syncs, software sync, payload and gap (R82). -/
def frameSymbols (P : Buf) (hwPulses : Nat) : List Symbol :=
  List.replicate hwPulses .hw ++ [.sw] ++ payloadSymbols P ++ [.gap]

/-- One transmission as a string of symbols (R82). -/
def transmissionSymbols (P : Buf) : List Symbol :=
  [.wake] ++ frameSymbols P nHwFirst ++ (List.replicate nRepeats (frameSymbols P nHwRepeat)).flatten

/-- The symbol that row `j` of a frame with `h` hardware-sync rows belongs to, and which of its segments it is. -/
def frameSymbolAt (P : Buf) (h j : Nat) : Symbol × Nat :=
  if j < h then (.hw, j % 2)
  else if j < h + 2 then (.sw, j - h)
  else if j < h + 114 then (bitSymbol (wbit P ((j - (h + 2)) / 2)), (j - (h + 2)) % 2)
  else (.gap, 0)

/-- The symbol that segment `s` belongs to, and which of its segments it is (R82, R142). -/
def symbolAt (P : Buf) (s : Nat) : Option (Symbol × Nat) :=
  if s < 2 then some (.wake, s)
  else if s < 121 then some (frameSymbolAt P 4 (s - 2))
  else if s < 756 then some (frameSymbolAt P 12 ((s - 121) % 127))
  else none

/-- The first segment of the first place a symbol has in the pulse program (R142, R150); for the two payload
symbols, the place of wire bit 0. -/
def Symbol.firstSegment : Symbol → Nat
  | .wake => 0
  | .hw => 2
  | .sw => 6
  | .bit1 => 8
  | .bit0 => 8
  | .gap => 120

/-! The procedure of primitive calls (R143). -/

/-- `HwSync(n)` (R143). -/
def callsHwSync (n : Nat) : List LineCall :=
  (List.replicate n [LineCall.setHigh, .delay 2500, .setLow, .delay 2500]).flatten

/-- `SwSync` (R143). -/
def callsSwSync : List LineCall := [.setHigh, .delay 4800, .setLow, .delay 640]

/-- The four calls of one payload bit (R132). -/
def callsBit (b : Bool) : List LineCall :=
  if b then [.setLow, .delay 640, .setHigh, .delay 640] else [.setHigh, .delay 640, .setLow, .delay 640]

/-- `Payload` (R143), the forced low included. -/
def callsPayload (P : Buf) : List LineCall :=
  ((List.range 56).map fun n => callsBit (wbit P n)).flatten ++ [.setLow]

/-- One pass of step 5 (R143). -/
def callsRepeat (P : Buf) : List LineCall := [.delay 34000] ++ callsHwSync 6 ++ callsSwSync ++ callsPayload P

/-- `Transmit` (R143) for the payload `P`. -/
def calls (P : Buf) : List LineCall :=
  [.setHigh, .delay 10000, .setLow, .delay 38000] ++ callsHwSync 2 ++ callsSwSync ++ callsPayload P
    ++ (List.replicate 5 (callsRepeat P)).flatten ++ [.delay 34000]

/-- The pair of calls that makes one segment (R144). -/
def Segment.calls (g : Segment) : List LineCall :=
  [if g.level then .setHigh else .setLow, .delay g.duration]

end Sys2Proof
end

