-- ==== Sys2Proof/Syntax.lean ====
section
/-! DEFINITION. The instructions: one constructor per row of spec/opcode_table.json. -/

namespace Sys2Proof

/-- The rows of the opcode table: the eight commands (R71), the sixteen control codes of the wire frame
(R77, R79) and the six line symbols (R81, R131).

A SET command carries its 32-bit operand `v` and DESERIALIZE its 56-bit payload `p` (R72). A wire frame carries
the fields of its plain buffer (R73): counter `c`, checksum nibble `k`, rolling code `r`, address `a`; its control
code is the constructor. -/
inductive Instr
  | nop
  | setCounter (v : BitVec 32)
  | setControl (v : BitVec 32)
  | setRolling (v : BitVec 32)
  | setAddress (v : BitVec 32)
  | serialize
  | deserialize (p : BitVec 56)
  | transmit
  | ctrlMy (c k : Nibble) (r : BitVec 16) (a : BitVec 24)
  | ctrlUp (c k : Nibble) (r : BitVec 16) (a : BitVec 24)
  | ctrlMyUp (c k : Nibble) (r : BitVec 16) (a : BitVec 24)
  | ctrlDown (c k : Nibble) (r : BitVec 16) (a : BitVec 24)
  | ctrlMyDown (c k : Nibble) (r : BitVec 16) (a : BitVec 24)
  | ctrlUpDown (c k : Nibble) (r : BitVec 16) (a : BitVec 24)
  | ctrlProgram (c k : Nibble) (r : BitVec 16) (a : BitVec 24)
  | ctrlSunFlag (c k : Nibble) (r : BitVec 16) (a : BitVec 24)
  | ctrlFlag (c k : Nibble) (r : BitVec 16) (a : BitVec 24)
  | ctrlReserved0 (c k : Nibble) (r : BitVec 16) (a : BitVec 24)
  | ctrlReserved7 (c k : Nibble) (r : BitVec 16) (a : BitVec 24)
  | ctrlReserved11 (c k : Nibble) (r : BitVec 16) (a : BitVec 24)
  | ctrlReserved12 (c k : Nibble) (r : BitVec 16) (a : BitVec 24)
  | ctrlReserved13 (c k : Nibble) (r : BitVec 16) (a : BitVec 24)
  | ctrlReserved14 (c k : Nibble) (r : BitVec 16) (a : BitVec 24)
  | ctrlReserved15 (c k : Nibble) (r : BitVec 16) (a : BitVec 24)
  | symWake
  | symHw
  | symSw
  | symBit1
  | symBit0
  | symGap
  deriving DecidableEq, Repr

end Sys2Proof
end

