-- ==== Sys2Proof/Machine/Wire.lean ====
section
/-! DEFINITION. How the rows of the wire frame (R73, R77, R79) and of the line code (R81) are named: control value
and constructor, symbol and constructor. -/

namespace Sys2Proof

/-- The wire frame with control value `F.control` and checksum nibble `k`, by its row (R77, R79). -/
def ctrlInstr (F : Frame) (k : Nibble) : Instr :=
  match F.control.toNat with
  | 0 => .ctrlReserved0 F.counter k F.rolling F.address
  | 1 => .ctrlMy F.counter k F.rolling F.address
  | 2 => .ctrlUp F.counter k F.rolling F.address
  | 3 => .ctrlMyUp F.counter k F.rolling F.address
  | 4 => .ctrlDown F.counter k F.rolling F.address
  | 5 => .ctrlMyDown F.counter k F.rolling F.address
  | 6 => .ctrlUpDown F.counter k F.rolling F.address
  | 7 => .ctrlReserved7 F.counter k F.rolling F.address
  | 8 => .ctrlProgram F.counter k F.rolling F.address
  | 9 => .ctrlSunFlag F.counter k F.rolling F.address
  | 10 => .ctrlFlag F.counter k F.rolling F.address
  | 11 => .ctrlReserved11 F.counter k F.rolling F.address
  | 12 => .ctrlReserved12 F.counter k F.rolling F.address
  | 13 => .ctrlReserved13 F.counter k F.rolling F.address
  | 14 => .ctrlReserved14 F.counter k F.rolling F.address
  | _ => .ctrlReserved15 F.counter k F.rolling F.address

/-- The frame and the checksum nibble of a wire-frame row; none for the rows of the other layers (R77, R79). -/
def Instr.wireFields : Instr → Option (Frame × Nibble)
  | .nop => none
  | .setCounter _ => none
  | .setControl _ => none
  | .setRolling _ => none
  | .setAddress _ => none
  | .serialize => none
  | .deserialize _ => none
  | .transmit => none
  | .ctrlMy c k r a => some (⟨c, 1#4, r, a⟩, k)
  | .ctrlUp c k r a => some (⟨c, 2#4, r, a⟩, k)
  | .ctrlMyUp c k r a => some (⟨c, 3#4, r, a⟩, k)
  | .ctrlDown c k r a => some (⟨c, 4#4, r, a⟩, k)
  | .ctrlMyDown c k r a => some (⟨c, 5#4, r, a⟩, k)
  | .ctrlUpDown c k r a => some (⟨c, 6#4, r, a⟩, k)
  | .ctrlProgram c k r a => some (⟨c, 8#4, r, a⟩, k)
  | .ctrlSunFlag c k r a => some (⟨c, 9#4, r, a⟩, k)
  | .ctrlFlag c k r a => some (⟨c, 10#4, r, a⟩, k)
  | .ctrlReserved0 c k r a => some (⟨c, 0#4, r, a⟩, k)
  | .ctrlReserved7 c k r a => some (⟨c, 7#4, r, a⟩, k)
  | .ctrlReserved11 c k r a => some (⟨c, 11#4, r, a⟩, k)
  | .ctrlReserved12 c k r a => some (⟨c, 12#4, r, a⟩, k)
  | .ctrlReserved13 c k r a => some (⟨c, 13#4, r, a⟩, k)
  | .ctrlReserved14 c k r a => some (⟨c, 14#4, r, a⟩, k)
  | .ctrlReserved15 c k r a => some (⟨c, 15#4, r, a⟩, k)
  | .symWake => none
  | .symHw => none
  | .symSw => none
  | .symBit1 => none
  | .symBit0 => none
  | .symGap => none

/-- The row of a line symbol (R81). -/
def Symbol.instr : Symbol → Instr
  | .wake => .symWake
  | .hw => .symHw
  | .sw => .symSw
  | .bit1 => .symBit1
  | .bit0 => .symBit0
  | .gap => .symGap

/-- The symbols, in the order of R81. -/
def Symbol.all : List Symbol := [.wake, .hw, .sw, .bit1, .bit0, .gap]

end Sys2Proof
end

