-- ==== Sys2Proof/WellFormed.lean ====
section
/-! DEFINITION. Which instructions are well formed. Operand widths are in the types (R72, R73), so one check is
left: the checksum field of a wire frame is computed, never supplied (R75), so the nibble an instruction carries
must be the one R110 gives for its other fields. -/

namespace Sys2Proof

/-- The check on one wire frame (R75, R110). -/
def wireFrameOk (F : Frame) (k : Nibble) : Bool := k == frameChecksum F

/-- The whole check. -/
def Instr.wellFormed (i : Instr) : Bool :=
  match i.wireFields with
  | some (F, k) => wireFrameOk F k
  | none => true

end Sys2Proof
end

