-- ==== Sys2Proof/Decode.lean ====
section
/-! DEFINITION. The decoder, total on every code word and rejecting by name, and after it the encoder, both
written from the encoding tables of `30_encoding.md`. -/

namespace Sys2Proof

/-- Commands (R70 to R72): every value of `cmd_op` is assigned, so nothing is rejected. -/
def decodeCommand (w : BitVec 59) : Instr :=
  match (cmdOp w).toNat with
  | 0 => .nop
  | 1 => .setCounter (operandS (cmdArg w))
  | 2 => .setControl (operandS (cmdArg w))
  | 3 => .setRolling (operandS (cmdArg w))
  | 4 => .setAddress (operandS (cmdArg w))
  | 5 => .serialize
  | 6 => .deserialize (cmdArg w)
  | _ => .transmit

/-- The fields of a plain buffer, read off its 56-bit vector (R73, R74, R9). -/
def plainFields (w : BitVec 56) : Frame where
  counter := w.extractLsb' 48 4
  control := w.extractLsb' 44 4
  rolling := w.extractLsb' 24 16
  address := w.extractLsb' 0 8 ++ w.extractLsb' 8 8 ++ w.extractLsb' 16 8

/-- Wire frames (R73, R77, R79): the first nibble is 0xA and the control nibble selects the row. -/
def decodePlain (w : BitVec 56) : Except DecodeError Instr :=
  if w.extractLsb' 52 4 = 0xA#4 then .ok (ctrlInstr (plainFields w) (w.extractLsb' 40 4))
  else .error .notAPlainBuffer

/-- Line symbols (R81): the one whose segments these are. -/
def decodePulses (g : List Segment) : Except DecodeError Instr :=
  match Symbol.all.find? (fun x => x.segments == g) with
  | some x => .ok x.instr
  | none => .error .notASymbol

/-- The decoder. -/
def decode : CodeWord → Except DecodeError Instr
  | .command w => .ok (decodeCommand w)
  | .plain w => decodePlain w
  | .pulses g => decodePulses g

/-- The encoder (R70 to R74, R77, R79, R81). Operand bits that R72 calls ignored are written as zeros. -/
def encode : Instr → CodeWord
  | .nop => .command (commandWord 0#3 0#56)
  | .setCounter v => .command (commandWord 1#3 (argS v))
  | .setControl v => .command (commandWord 2#3 (argS v))
  | .setRolling v => .command (commandWord 3#3 (argS v))
  | .setAddress v => .command (commandWord 4#3 (argS v))
  | .serialize => .command (commandWord 5#3 0#56)
  | .deserialize p => .command (commandWord 6#3 p)
  | .transmit => .command (commandWord 7#3 0#56)
  | .ctrlMy c k r a => .plain (layout ⟨c, 1#4, r, a⟩ k).vec
  | .ctrlUp c k r a => .plain (layout ⟨c, 2#4, r, a⟩ k).vec
  | .ctrlMyUp c k r a => .plain (layout ⟨c, 3#4, r, a⟩ k).vec
  | .ctrlDown c k r a => .plain (layout ⟨c, 4#4, r, a⟩ k).vec
  | .ctrlMyDown c k r a => .plain (layout ⟨c, 5#4, r, a⟩ k).vec
  | .ctrlUpDown c k r a => .plain (layout ⟨c, 6#4, r, a⟩ k).vec
  | .ctrlProgram c k r a => .plain (layout ⟨c, 8#4, r, a⟩ k).vec
  | .ctrlSunFlag c k r a => .plain (layout ⟨c, 9#4, r, a⟩ k).vec
  | .ctrlFlag c k r a => .plain (layout ⟨c, 10#4, r, a⟩ k).vec
  | .ctrlReserved0 c k r a => .plain (layout ⟨c, 0#4, r, a⟩ k).vec
  | .ctrlReserved7 c k r a => .plain (layout ⟨c, 7#4, r, a⟩ k).vec
  | .ctrlReserved11 c k r a => .plain (layout ⟨c, 11#4, r, a⟩ k).vec
  | .ctrlReserved12 c k r a => .plain (layout ⟨c, 12#4, r, a⟩ k).vec
  | .ctrlReserved13 c k r a => .plain (layout ⟨c, 13#4, r, a⟩ k).vec
  | .ctrlReserved14 c k r a => .plain (layout ⟨c, 14#4, r, a⟩ k).vec
  | .ctrlReserved15 c k r a => .plain (layout ⟨c, 15#4, r, a⟩ k).vec
  | .symWake => .pulses Symbol.wake.segments
  | .symHw => .pulses Symbol.hw.segments
  | .symSw => .pulses Symbol.sw.segments
  | .symBit1 => .pulses Symbol.bit1.segments
  | .symBit0 => .pulses Symbol.bit0.segments
  | .symGap => .pulses Symbol.gap.segments

/-- The code word that `nbits` table bits of value `w` are: 59 bits (64 in whole bytes, the five above them zero)
a command, 56 bits a plain buffer, and up to 8 bits the levels of a line symbol, its first level the most
significant. The table gives a symbol's levels without its durations: `01` is BIT1 and `0` is GAP alone, and
`10`, which WAKE, HW, SW and BIT0 share, is read as the Manchester code of a 0 bit (R131; log 11). -/
def tableCodeWord (nbits w : Nat) : Option CodeWord :=
  if nbits = 59 ∨ nbits = 64 then
    if w < 2 ^ 59 then some (.command (BitVec.ofNat 59 w)) else none
  else if nbits = 56 then
    if w < 2 ^ 56 then some (.plain (BitVec.ofNat 56 w)) else none
  else if nbits ≤ 8 then
    match w with
    | 0 => some (.pulses Symbol.gap.segments)
    | 1 => some (.pulses Symbol.bit1.segments)
    | 2 => some (.pulses Symbol.bit0.segments)
    | _ => none
  else none

/-- What the decoder reads from a word of the opcode table. -/
def decodeTableWord (nbits w : Nat) : Option Instr :=
  match tableCodeWord nbits w with
  | some c => (decode c).toOption
  | none => none

end Sys2Proof
end

