-- ==== Sys2Proof/Config.lean ====
section
/-! DEFINITION. The open parameters of R8, as constants without a value: a claim holds whatever they are.
`TOL` is not here: no rule admits a deviation (R154, log 16). -/

namespace Sys2Proof.Config

/-- `STORE_INIT` (R8, R172, D25): what the host's store holds before the first command. Log 4. -/
opaque storeInit : BitVec 16

/-- `COUNTER_INIT` (R8, R176, D18): the counter value the host writes at start-up. Log 5. -/
opaque counterInit : BitVec 4

/-- `SENDER_ADDRESS` (R8, R176): the address the Controller was constructed with. Log 5. -/
opaque senderAddress : BitVec 24

/-- `CLK_PER_US` (R8, R212, D2): clock cycles per tick, a positive integer on which no rule depends. Log 5. -/
opaque clkPerUs : ℕ+

end Sys2Proof.Config
end

