-- ==== Sys2Proof/Machine/State.lean ====
section
/-! DEFINITION. The state: the block's nine rows (R20) and the host beside it (R31, R170), the state after reset,
and the two ways a step can stop. -/

namespace Sys2Proof.Machine

/-- The complete state of the block: exactly the rows of R20, 181 bits. -/
@[ext]
structure Block where
  /-- `FR`, the frame register (R21). -/
  fr : Frame
  /-- `PB[0..6]`, the payload buffer (R23). -/
  pb : Buf
  /-- `DF`, the decoded frame (R24). -/
  df : Frame
  /-- `DV`, decode valid (R25). -/
  dv : Bool
  /-- `CE`, checksum error (R25, R180). -/
  ce : Bool
  /-- `BUSY`, a transmission is in progress (R26). -/
  busy : Bool
  /-- `SEG`, the segment on the line (R27). -/
  seg : BitVec 10
  /-- `REM`, the ticks left in it (R27, R190). -/
  rem : BitVec 16
  deriving DecidableEq, Repr

/-- What the host can do, one thing after another (R85, R171, R176, R177). `rst` is not among them: it can come at
any time (R177, R200), so it has a field of its own in `HostSide`. -/
inductive HostAction
  /-- Hold a command word on the port with `cmd_valid = 1` until it is accepted (R177, R205). -/
  | present (w : BitVec 59)
  /-- Present a command word once and, if it is not accepted, withdraw it (R205); the port is then empty for a tick,
  since a waiting word is never changed for another (R177; log 17). -/
  | offer (w : BitVec 59)
  /-- Take a wire frame, given as its plain buffer, for what to store and serialize (log 1). -/
  | frame (w : BitVec 56)
  /-- Let `n` ticks pass (R177). -/
  | pass (n : Nat)
  /-- WAIT: let ticks pass until `busy = 0` (R85). -/
  | wait
  /-- The start-up duties (R176). -/
  | startUp
  /-- SET_FRAME with address, counter, control code and rolling code (R85). -/
  | setFrame (a c k r : BitVec 32)
  /-- SEND, the document's SendControlCode (R171), with the ticks the host lets pass before each of its stages, none
  where the list has no entry (R177). -/
  | send (code : ControlCode) (pauses : List Nat)
  deriving DecidableEq, Repr

/-- Where a SendControlCode stands after its StoreRead (R171): the command it is about to have accepted, its WAIT,
or its StoreWrite. -/
inductive SendStage
  | setControl | setRolling | transmit | wait | persist
  deriving DecidableEq, Repr

/-- A SendControlCode that is running (R171): its code, the value `r` it read from the store, its stage, and the
ticks the host still lets pass before this stage and each later one (R177; log 3). -/
@[ext]
structure SendCall where
  code : ControlCode
  r : BitVec 16
  stage : SendStage
  pauses : List Nat
  deriving DecidableEq, Repr

/-- The host (R170): its store, the SendControlCode it is in, if any, and what it still has to do after that, the
next action first (log 3). -/
@[ext]
structure HostSide where
  /-- `STORE` (R31, R172). -/
  store : BitVec 16
  /-- The host is inside a SendControlCode, which is not atomic (R57, R171); it alone writes the store (R177). -/
  call : Option SendCall
  /-- The model's own field: the host's remaining actions. -/
  script : List HostAction
  /-- The model's own field: for each coming cycle with `rst = 1`, how many steps come before it, counted from the
  one before it; 0 first means now (R177, R200; log 17). -/
  resets : List Nat
  deriving DecidableEq, Repr

/-- The state of the machine. -/
@[ext]
structure State where
  block : Block
  host : HostSide
  deriving DecidableEq, Repr

/-- No step faults: the one exception, `InvalidChecksum`, is a next state (R181), and "there is no encoding on
which the block traps, hangs or is undefined" (R80). The type has no constructor (log 15); nothing raises one,
which is safe. -/
inductive Fault
  deriving DecidableEq, Repr

/-- Why a step is refused. -/
inductive Refusal
  /-- Raised by exec for an instruction without a meaning yet; no arm does. Safe: the machine stops. -/
  | notModelled (mnemonic : String)
  /-- Raised by step when the host takes up a 56-bit word that is no plain buffer of R73, so no row of the table
  (log 8). Safe: the machine stops. No command word raises it (R80). -/
  | undecodable (e : DecodeError)
  deriving DecidableEq, Repr

/-- The frame of zeros (R32). -/
def Frame.zero : Frame := ⟨0#4, 0#4, 0#16, 0#24⟩

/-- The reset values of R32. -/
def Block.reset : Block where
  fr := Frame.zero
  pb := ⟨0#8, 0#8, 0#8, 0#8, 0#8, 0#8, 0#8⟩
  df := Frame.zero
  dv := false
  ce := false
  busy := false
  seg := 0#10
  rem := 0#16

/-- The machine right after reset (R32, R200): the store holds the open parameter `STORE_INIT` (log 4), and the
host has nothing to do and asserts no `rst` (log 3). -/
def State.reset : State where
  block := Block.reset
  host := ⟨Config.storeInit, none, [], []⟩

end Sys2Proof.Machine
end

