-- ==== Sys2Proof/Machine/Flags.lean ====
section
/-! DEFINITION. The block's three flags (R25, R26) and the cause code (R180). There are no arithmetic condition
codes. -/

namespace Sys2Proof.Machine

/-- The cause code of an exception (R180): `CE` read as a number is the code of the last DESERIALIZE's exception,
0 for none. -/
def causeCode : BlockException → Nat
  | .invalidChecksum => 1

/-- `DV` and `CE` after a DESERIALIZE, always both (R25, R118): success gives `DV = 1, CE = 0`, failure `DV = 0,
CE = 1`. -/
def Block.setDecodeFlags (b : Block) (ok : Bool) : Block := { b with dv := ok, ce := !ok }

/-- `cmd_ready = NOT BUSY` (R26). -/
def Block.cmdReady (b : Block) : Bool := !b.busy

end Sys2Proof.Machine
end

