-- ==== Sys2Proof/Machine/Ops.lean ====
section
/-! DEFINITION. The named operations over the block's registers, taking the one exception, the tick step, and
accepting a command. -/

namespace Sys2Proof.Machine

/-! Field writes of `FR` (R22): each truncates its operand to the field's width. -/

/-- `FR.counter <- trunc_4(v)` (R101). -/
def Block.setCounter (b : Block) (v : BitVec 32) : Block := { b with fr := { b.fr with counter := trunc4 v } }

/-- `FR.control <- trunc_4(v)` (R102). -/
def Block.setControl (b : Block) (v : BitVec 32) : Block := { b with fr := { b.fr with control := trunc4 v } }

/-- `FR.rolling <- trunc_16(v)` (R103). -/
def Block.setRolling (b : Block) (v : BitVec 32) : Block := { b with fr := { b.fr with rolling := trunc16 v } }

/-- `FR.address <- trunc_24(v)` (R104). -/
def Block.setAddress (b : Block) (v : BitVec 32) : Block := { b with fr := { b.fr with address := trunc24 v } }

/-! The payload space (R11, R50, R51): the only accesses are to the seven constant indices. -/

/-- `MemRead(i, 1)`: `PB[i]` (R11). -/
def Block.memRead (b : Block) (i : Fin 7) : Byte := b.pb.byte i.val

/-- `PB <- Serialize(FR)`, all seven bytes at once (R116, R146). -/
def Block.serializeFrame (b : Block) : Block := { b with pb := serialize b.fr }

/-! DESERIALIZE's two outcomes (R118). -/

/-- Taking the exception (R181): `DV <- 0`, `CE <- 1`, no other state written. There is no handler, no saved
state and nothing to return from (R186, R187), so no return operation stands beside it. -/
def Block.raise (b : Block) : BlockException → Block
  | .invalidChecksum => b.setDecodeFlags false

/-- `DF <- r`, `DV <- 1`, `CE <- 0` (R118). -/
def Block.acceptFrame (b : Block) (F : Frame) : Block := { b with df := F }.setDecodeFlags true

/-- The effect of DESERIALIZE on a payload (R118). -/
def Block.decodePayload (b : Block) (P : Buf) : Block :=
  match deserialize P with
  | .ok F => b.acceptFrame F
  | .error e => b.raise e

/-! The sequencer. -/

/-- Loading the down-counter with a duration (R11 `REM <- d`, R8 `REMW`). -/
def Block.enterSegment (b : Block) (s : BitVec 10) (d : Nat) : Block :=
  { b with seg := s, rem := BitVec.ofNat 16 d }

/-- The command step of TRANSMIT (R146). -/
def Block.startTransmission (b : Block) : Block :=
  let b' := b.serializeFrame
  { b' with busy := true }.enterSegment 0#10 (segAt b'.pb 0).duration

/-- The end of a transmission (R147, last branch). -/
def Block.stopTransmission (b : Block) : Block := { b with busy := false, seg := 0#10, rem := 0#16 }

/-- The tick step (R147), its branches in the order of the rule. -/
def Block.tick (b : Block) : Block :=
  if b.busy then
    if 1 < b.rem.toNat then { b with rem := b.rem - 1#16 }
    else if b.seg.toNat < 755 then b.enterSegment (b.seg + 1#10) (segAt b.pb (b.seg.toNat + 1)).duration
    else b.stopTransmission
  else b

/-! Outputs (R28, R29). Reading one changes nothing (R57). -/

/-- `tx` (R28). -/
def Block.tx (b : Block) : Bool := if b.busy then (segAt b.pb b.seg.toNat).level else false

/-- `payload_out` (R29). -/
def Block.payloadOut (b : Block) : BitVec 56 := b.pb.vec

/-! Steps over the whole state. -/

/-- The state with its host's actions replaced. -/
def State.withScript (s : State) (rest : List HostAction) : State :=
  { s with host := { s.host with script := rest } }

/-- The state with the SendControlCode in progress replaced. -/
def State.withCall (s : State) (call : Option SendCall) : State := { s with host := { s.host with call } }

/-- The state with its block replaced. -/
def State.withBlock (s : State) (b : Block) : State := { s with block := b }

/-- One microsecond passes (R12, R147). -/
def State.tick (s : State) : State := s.withBlock s.block.tick

/-- A command step (R12, R206): with `BUSY = 0` the command's whole effect happens at once and no tick passes;
with `BUSY = 1` it is not accepted, and the only step there is, the tick step, is taken (log 6). -/
def State.command (s : State) (effect : Block → Block) : Host.Outcome State Fault Refusal :=
  if s.block.cmdReady then .next (s.withBlock (effect s.block)) else .next s.tick

end Sys2Proof.Machine
end

