-- ==== Sys2Proof/Machine/CodecCommands.lean ====
section
/-! DEFINITION. The codec's commands (`41_codec.md`) and TRANSMIT (`43_pulse_formatter.md`). -/

namespace Sys2Proof.Machine

/-- `SERIALIZE` (R116). -/
def execSerialize (s : State) : Host.Outcome State Fault Refusal := s.command (·.serializeFrame)

/-- `DESERIALIZE p` (R118), with the exception `InvalidChecksum` (R180, R181). -/
def execDeserialize (p : BitVec 56) (s : State) : Host.Outcome State Fault Refusal :=
  s.command (·.decodePayload (Buf.ofVec p))

/-- `TRANSMIT` (R146). -/
def execTransmit (s : State) : Host.Outcome State Fault Refusal := s.command (·.startTransmission)

end Sys2Proof.Machine
end

