-- ==== Sys2Proof/Machine/FrameFields.lean ====
section
/-! DEFINITION. The frame-field commands (`40_frame_fields.md`). -/

namespace Sys2Proof.Machine

/-- `NOP` (R100): no state is written. -/
def execNop (s : State) : Host.Outcome State Fault Refusal := s.command id

/-- `SET_COUNTER v` (R101). -/
def execSetCounter (v : BitVec 32) (s : State) : Host.Outcome State Fault Refusal := s.command (·.setCounter v)

/-- `SET_CONTROL v` (R102). -/
def execSetControl (v : BitVec 32) (s : State) : Host.Outcome State Fault Refusal := s.command (·.setControl v)

/-- `SET_ROLLING v` (R103). -/
def execSetRolling (v : BitVec 32) (s : State) : Host.Outcome State Fault Refusal := s.command (·.setRolling v)

/-- `SET_ADDRESS v` (R104). -/
def execSetAddress (v : BitVec 32) (s : State) : Host.Outcome State Fault Refusal := s.command (·.setAddress v)

end Sys2Proof.Machine
end

