-- ==== Sys2Proof/Machine/LineSymbols.lean ====
section
/-! DEFINITION. The line symbols (R81, R131), one row each.

A symbol is sent by the sequencer only, at its places in the pulse program (R81, R82). Executing one is the tick
step while that symbol is on the line: one microsecond of it passes, and when its segment is over the symbol's
next segment follows, or the next symbol's first. While it is not on the line the symbol waits, and the tick step
of the moment is taken, the only step a busy block has (R206). Log 2. -/

namespace Sys2Proof.Machine

/-- One microsecond of segment `k` of symbol `x` (R81, R147). -/
def Block.symbolTick (x : Symbol) (k : Nat) (b : Block) : Block :=
  if 1 < b.rem.toNat then { b with rem := b.rem - 1#16 }
  else match x.segments[k + 1]? with
    | some g => b.enterSegment (b.seg + 1#10) g.duration
    | none =>
      if b.seg.toNat < 755 then b.enterSegment (b.seg + 1#10) (segAt b.pb (b.seg.toNat + 1)).duration
      else b.stopTransmission

/-- The symbol on the line and which of its segments is running, if a transmission is (R27, R82). -/
def Block.onLine (b : Block) : Option (Symbol × Nat) :=
  if b.busy then symbolAt b.pb b.seg.toNat else none

/-- One microsecond of symbol `x`, if it is on the line; else the tick step of the moment (log 2). -/
def State.symbol (s : State) (x : Symbol) : Host.Outcome State Fault Refusal :=
  match s.block.onLine with
  | some (y, k) => if y = x then .next (s.withBlock (s.block.symbolTick x k)) else .next s.tick
  | none => .next s.tick

/-- `SYM.WAKE` (R81): the wakeup pulse. -/
def execSymWake (s : State) : Host.Outcome State Fault Refusal := s.symbol .wake

/-- `SYM.HW` (R81): one hardware-sync pulse. -/
def execSymHw (s : State) : Host.Outcome State Fault Refusal := s.symbol .hw

/-- `SYM.SW` (R81): the software sync. -/
def execSymSw (s : State) : Host.Outcome State Fault Refusal := s.symbol .sw

/-- `SYM.BIT1` (R81, R131): a payload bit equal to 1. -/
def execSymBit1 (s : State) : Host.Outcome State Fault Refusal := s.symbol .bit1

/-- `SYM.BIT0` (R81, R131): a payload bit equal to 0. -/
def execSymBit0 (s : State) : Host.Outcome State Fault Refusal := s.symbol .bit0

/-- `SYM.GAP` (R81): the low of 34000 after every payload. -/
def execSymGap (s : State) : Host.Outcome State Fault Refusal := s.symbol .gap

end Sys2Proof.Machine
end

