-- ==== Sys2Proof/Machine/HostScripts.lean ====
section
/-! DEFINITION. The command words the host issues, and the expansions of its pseudo-operations (R85, R171, R176). -/

namespace Sys2Proof.Machine

/-- A SET command's word (R71, R72). -/
def setWord (op : BitVec 3) (v : BitVec 32) : BitVec 59 := commandWord op (argS v)

/-- SERIALIZE's word (R71, R72). -/
def serializeWord : BitVec 59 := commandWord 5#3 0#56

/-- TRANSMIT's word (R71, R72). -/
def transmitWord : BitVec 59 := commandWord 7#3 0#56

/-- SET_FRAME (R85). The rule lets its four commands come in any order, and `fr_*` shows the states between them;
the order of R85's list, address, counter, control code, rolling code, is the model's choice, and so is that no tick
passes between them (log 18). -/
def setFrameScript (a c k r : BitVec 32) : List HostAction :=
  [.present (setWord 4#3 a), .present (setWord 1#3 c), .present (setWord 2#3 k), .present (setWord 3#3 r)]

/-- What the host does with a wire frame: SET_FRAME of its fields, then SERIALIZE (R85, R116; log 1). -/
def wireFrameScript (F : Frame) : List HostAction :=
  setFrameScript (F.address.setWidth 32) (F.counter.setWidth 32) (F.control.setWidth 32) (F.rolling.setWidth 32)
    ++ [.present serializeWord]

/-- The start-up duties (R176), (a) before (b); the rule does not order them, and this order is the model's choice
(log 18). -/
def startUpScript : List HostAction :=
  [.present (setWord 4#3 (Config.senderAddress.setWidth 32)),
   .present (setWord 1#3 (Config.counterInit.setWidth 32))]

/-- `r + 1`, wide enough to hold 65536 (R171). -/
def nextRolling (r : BitVec 16) : BitVec 32 := r.setWidth 32 + 1#32

/-- The ticks the host still lets pass before it goes on with a SendControlCode (R177). -/
def SendCall.pause (p : SendCall) : Nat := p.pauses.headD 0

/-- One of those ticks has passed. -/
def SendCall.paused (p : SendCall) : SendCall := { p with pauses := (p.pause - 1) :: p.pauses.tail }

/-- The command of a SendControlCode's stage (R171). -/
def SendCall.command (p : SendCall) : Option (BitVec 59) :=
  match p.stage with
  | .setControl => some (setWord 2#3 (p.code.value.setWidth 32))
  | .setRolling => some (setWord 3#3 (nextRolling p.r))
  | .transmit => some transmitWord
  | .wait => none
  | .persist => none

/-- The command a SendControlCode holds on the port: its stage's, once the host has let its ticks pass. -/
def SendCall.word (p : SendCall) : Option (BitVec 59) := if p.pause = 0 then p.command else none

/-- The stages of a SendControlCode in order (R171), SET_CONTROL before SET_ROLLING, which is the model's choice
(log 13). StoreWrite is the last. -/
def SendStage.next : SendStage → SendStage
  | .setControl => .setRolling
  | .setRolling => .transmit
  | .transmit => .wait
  | .wait => .persist
  | .persist => .persist

/-- A SendControlCode at its next stage. -/
def SendCall.next (p : SendCall) : SendCall := { p with stage := p.stage.next, pauses := p.pauses.tail }

/-- The transmission of a SendControlCode is behind it: its WAIT has ended, or can end (R171). -/
def SendCall.sent (p : SendCall) (b : Block) : Bool :=
  match p.stage with
  | .setControl => false
  | .setRolling => false
  | .transmit => false
  | .wait => b.cmdReady
  | .persist => true

/-- StoreRead (R172): it returns the store's word and changes nothing. -/
def HostSide.storeRead (h : HostSide) : BitVec 16 := h.store

/-- StoreWrite (R172). -/
def HostSide.storeWrite (h : HostSide) (v : BitVec 16) : HostSide := { h with store := v }

end Sys2Proof.Machine
end

