-- ==== Sys2Proof/Machine/WireFrames.lean ====
section
/-! DEFINITION. The wire frames, one row per control code (R77, R79).

A control code is data to the block: it does nothing different for different codes (R77), stores any of the
sixteen, serializes it and decodes it (R79). A row is no command of the block, and only a SET command writes `FR`,
one field each (R22). So a row's frame is a host operation, like SET_FRAME: the host goes on to issue the four SET
commands of its fields and SERIALIZE (R85, R116). The checksum is computed and never supplied (R75), so the nibble
the row carries is not used. Log 1 and log 7. -/

namespace Sys2Proof.Machine

/-- The host takes up a wire frame: its commands come before whatever else it has to do (R85; log 1). -/
def State.takeFrame (s : State) (F : Frame) : Host.Outcome State Fault Refusal :=
  .next (s.withScript (wireFrameScript F ++ s.host.script))

/-- `CTRL.My`, control code 1 (R77). -/
def execCtrlMy (c : Nibble) (r : BitVec 16) (a : BitVec 24) (s : State) : Host.Outcome State Fault Refusal :=
  s.takeFrame ⟨c, 1#4, r, a⟩

/-- `CTRL.Up`, control code 2 (R77). -/
def execCtrlUp (c : Nibble) (r : BitVec 16) (a : BitVec 24) (s : State) : Host.Outcome State Fault Refusal :=
  s.takeFrame ⟨c, 2#4, r, a⟩

/-- `CTRL.MyUp`, control code 3 (R77). -/
def execCtrlMyUp (c : Nibble) (r : BitVec 16) (a : BitVec 24) (s : State) : Host.Outcome State Fault Refusal :=
  s.takeFrame ⟨c, 3#4, r, a⟩

/-- `CTRL.Down`, control code 4 (R77). -/
def execCtrlDown (c : Nibble) (r : BitVec 16) (a : BitVec 24) (s : State) : Host.Outcome State Fault Refusal :=
  s.takeFrame ⟨c, 4#4, r, a⟩

/-- `CTRL.MyDown`, control code 5 (R77). -/
def execCtrlMyDown (c : Nibble) (r : BitVec 16) (a : BitVec 24) (s : State) : Host.Outcome State Fault Refusal :=
  s.takeFrame ⟨c, 5#4, r, a⟩

/-- `CTRL.UpDown`, control code 6 (R77). -/
def execCtrlUpDown (c : Nibble) (r : BitVec 16) (a : BitVec 24) (s : State) : Host.Outcome State Fault Refusal :=
  s.takeFrame ⟨c, 6#4, r, a⟩

/-- `CTRL.Program`, control code 8 (R77). -/
def execCtrlProgram (c : Nibble) (r : BitVec 16) (a : BitVec 24) (s : State) : Host.Outcome State Fault Refusal :=
  s.takeFrame ⟨c, 8#4, r, a⟩

/-- `CTRL.SunFlag`, control code 9 (R77). -/
def execCtrlSunFlag (c : Nibble) (r : BitVec 16) (a : BitVec 24) (s : State) : Host.Outcome State Fault Refusal :=
  s.takeFrame ⟨c, 9#4, r, a⟩

/-- `CTRL.Flag`, control code 10 (R77). -/
def execCtrlFlag (c : Nibble) (r : BitVec 16) (a : BitVec 24) (s : State) : Host.Outcome State Fault Refusal :=
  s.takeFrame ⟨c, 10#4, r, a⟩

/-- `CTRL.reserved_0`, control code 0 (R79). -/
def execCtrlReserved0 (c : Nibble) (r : BitVec 16) (a : BitVec 24) (s : State) : Host.Outcome State Fault Refusal :=
  s.takeFrame ⟨c, 0#4, r, a⟩

/-- `CTRL.reserved_7`, control code 7 (R79). -/
def execCtrlReserved7 (c : Nibble) (r : BitVec 16) (a : BitVec 24) (s : State) : Host.Outcome State Fault Refusal :=
  s.takeFrame ⟨c, 7#4, r, a⟩

/-- `CTRL.reserved_11`, control code 11 (R79). -/
def execCtrlReserved11 (c : Nibble) (r : BitVec 16) (a : BitVec 24) (s : State) : Host.Outcome State Fault Refusal :=
  s.takeFrame ⟨c, 11#4, r, a⟩

/-- `CTRL.reserved_12`, control code 12 (R79). -/
def execCtrlReserved12 (c : Nibble) (r : BitVec 16) (a : BitVec 24) (s : State) : Host.Outcome State Fault Refusal :=
  s.takeFrame ⟨c, 12#4, r, a⟩

/-- `CTRL.reserved_13`, control code 13 (R79). -/
def execCtrlReserved13 (c : Nibble) (r : BitVec 16) (a : BitVec 24) (s : State) : Host.Outcome State Fault Refusal :=
  s.takeFrame ⟨c, 13#4, r, a⟩

/-- `CTRL.reserved_14`, control code 14 (R79). -/
def execCtrlReserved14 (c : Nibble) (r : BitVec 16) (a : BitVec 24) (s : State) : Host.Outcome State Fault Refusal :=
  s.takeFrame ⟨c, 14#4, r, a⟩

/-- `CTRL.reserved_15`, control code 15 (R79). -/
def execCtrlReserved15 (c : Nibble) (r : BitVec 16) (a : BitVec 24) (s : State) : Host.Outcome State Fault Refusal :=
  s.takeFrame ⟨c, 15#4, r, a⟩

end Sys2Proof.Machine
end

