-- ==== Sys2Proof/Machine/Dispatch.lean ====
section
/-! DEFINITION. Every instruction's meaning, one arm each. -/

namespace Sys2Proof.Machine

def exec (i : Instr) (s : State) : Host.Outcome State Fault Refusal :=
  match i with
  | .nop => Sys2Proof.Machine.execNop s
  | .setCounter v => Sys2Proof.Machine.execSetCounter v s
  | .setControl v => Sys2Proof.Machine.execSetControl v s
  | .setRolling v => Sys2Proof.Machine.execSetRolling v s
  | .setAddress v => Sys2Proof.Machine.execSetAddress v s
  | .serialize => Sys2Proof.Machine.execSerialize s
  | .deserialize p => Sys2Proof.Machine.execDeserialize p s
  | .transmit => Sys2Proof.Machine.execTransmit s
  | .ctrlMy c _ r a => Sys2Proof.Machine.execCtrlMy c r a s
  | .ctrlUp c _ r a => Sys2Proof.Machine.execCtrlUp c r a s
  | .ctrlMyUp c _ r a => Sys2Proof.Machine.execCtrlMyUp c r a s
  | .ctrlDown c _ r a => Sys2Proof.Machine.execCtrlDown c r a s
  | .ctrlMyDown c _ r a => Sys2Proof.Machine.execCtrlMyDown c r a s
  | .ctrlUpDown c _ r a => Sys2Proof.Machine.execCtrlUpDown c r a s
  | .ctrlProgram c _ r a => Sys2Proof.Machine.execCtrlProgram c r a s
  | .ctrlSunFlag c _ r a => Sys2Proof.Machine.execCtrlSunFlag c r a s
  | .ctrlFlag c _ r a => Sys2Proof.Machine.execCtrlFlag c r a s
  | .ctrlReserved0 c _ r a => Sys2Proof.Machine.execCtrlReserved0 c r a s
  | .ctrlReserved7 c _ r a => Sys2Proof.Machine.execCtrlReserved7 c r a s
  | .ctrlReserved11 c _ r a => Sys2Proof.Machine.execCtrlReserved11 c r a s
  | .ctrlReserved12 c _ r a => Sys2Proof.Machine.execCtrlReserved12 c r a s
  | .ctrlReserved13 c _ r a => Sys2Proof.Machine.execCtrlReserved13 c r a s
  | .ctrlReserved14 c _ r a => Sys2Proof.Machine.execCtrlReserved14 c r a s
  | .ctrlReserved15 c _ r a => Sys2Proof.Machine.execCtrlReserved15 c r a s
  | .symWake => Sys2Proof.Machine.execSymWake s
  | .symHw => Sys2Proof.Machine.execSymHw s
  | .symSw => Sys2Proof.Machine.execSymSw s
  | .symBit1 => Sys2Proof.Machine.execSymBit1 s
  | .symBit0 => Sys2Proof.Machine.execSymBit0 s
  | .symGap => Sys2Proof.Machine.execSymGap s

end Sys2Proof.Machine
end

