-- ==== Sys2Proof/Machine/Ports.lean ====
section
/-! DEFINITION. The ports of R29: outputs as plain copies of state, inputs as what the host drives,
and the time unit (R212). -/

namespace Sys2Proof.Machine

/-- `rst` (R29, R200). -/
def State.rst (s : State) : Bool := s.host.resets.head? == some 0

/-- The command word on the port, if `cmd_valid = 1` (R29, R70): that of the SendControlCode in progress, or that
of the host's next action. -/
def State.portWord (s : State) : Option (BitVec 59) :=
  match s.host.call with
  | some p => p.word
  | none =>
    match s.host.script with
    | .present w :: _ => some w
    | .offer w :: _ => some w
    | _ => none

/-- `cmd_valid` (R29). -/
def State.cmdValid (s : State) : Bool := s.portWord.isSome

/-- A command is accepted in this cycle: `cmd_valid`, `cmd_ready`, and no `rst`, which wins (R29, R185, R206). -/
def State.accepting (s : State) : Bool := s.cmdValid && s.block.cmdReady && !s.rst

/-- The output ports of R29. -/
@[ext]
structure Outputs where
  cmdReady : Bool
  busy : Bool
  tx : Bool
  frCounter : BitVec 4
  frControl : BitVec 4
  frRolling : BitVec 16
  frAddress : BitVec 24
  payloadOut : BitVec 56
  dfCounter : BitVec 4
  dfControl : BitVec 4
  dfRolling : BitVec 16
  dfAddress : BitVec 24
  dfValid : Bool
  chkErr : Bool
  deriving DecidableEq, Repr

/-- What the output ports show (R28, R29). -/
def Block.outputs (b : Block) : Outputs where
  cmdReady := b.cmdReady
  busy := b.busy
  tx := b.tx
  frCounter := b.fr.counter
  frControl := b.fr.control
  frRolling := b.fr.rolling
  frAddress := b.fr.address
  payloadOut := b.payloadOut
  dfCounter := b.df.counter
  dfControl := b.df.control
  dfRolling := b.df.rolling
  dfAddress := b.df.address
  dfValid := b.dv
  chkErr := b.ce

/-- Clock cycles of a number of ticks (R212). -/
def clockCycles (ticks : Nat) : Nat := ticks * Config.clkPerUs

end Sys2Proof.Machine
end

