-- ==== Sys2Proof/Machine/Schedule.lean ====
section
/-! DEFINITION. Which step comes next (R12): `rst` if it is asserted, else what the host does next, and a busy
block ticks (R206). -/

namespace Sys2Proof.Machine

/-- One microsecond (R147). While a transmission runs, the symbol at `SEG` is fetched from the pulse program and
executed; an idle block does not change. -/
def State.lineTick (s : State) : Host.Outcome State Fault Refusal :=
  match s.block.onLine with
  | some (x, _) => exec x.instr s
  | none => .next s.tick

/-- A code word handed to the block: it is decoded and the instruction runs. -/
def State.issue (s : State) (c : CodeWord) : Host.Outcome State Fault Refusal :=
  match decode c with
  | .ok i => exec i s
  | .error e => .refused (.undecodable e)

/-- A command word held on the port (R177, R205): accepted by an idle block, which leaves the state `done` to
run it in; else it waits. -/
def State.hold (s : State) (w : BitVec 59) (done : State) : Host.Outcome State Fault Refusal :=
  if s.block.cmdReady then done.issue (.command w) else s.lineTick

/-- The step of a SendControlCode's stage (R171): the store is written after `busy` has fallen (R175), with
`(r + 1) mod 2^16` (R174). -/
def State.sendStage (s : State) (p : SendCall) : Host.Outcome State Fault Refusal :=
  match p.command with
  | some w => s.hold w (s.withCall (some p.next))
  | none =>
    if p.stage = .persist then
      .next { s with host := { s.host.storeWrite (trunc16 (nextRolling p.r)) with call := none } }
    else if s.block.cmdReady then .next (s.withCall (some p.next))
    else s.lineTick

/-- The step of a SendControlCode in progress: a tick, while the host lets ticks pass (R177), or its stage. -/
def State.sendStep (s : State) (p : SendCall) : Host.Outcome State Fault Refusal :=
  if p.pause = 0 then s.sendStage p else (s.withCall (some p.paused)).lineTick

/-- The step for the host's next action `a`, with `rest` after it. -/
def State.act (s : State) (rest : List HostAction) : HostAction → Host.Outcome State Fault Refusal
  | .present w => s.hold w (s.withScript rest)
  | .offer w =>
    if s.block.cmdReady then (s.withScript rest).issue (.command w) else (s.withScript (.pass 1 :: rest)).lineTick
  | .frame w => (s.withScript rest).issue (.plain w)
  | .pass 0 => .next (s.withScript rest)
  | .pass (n + 1) => (s.withScript (.pass n :: rest)).lineTick
  | .wait => if s.block.cmdReady then .next (s.withScript rest) else s.lineTick
  | .startUp => .next (s.withScript (startUpScript ++ rest))
  | .setFrame a c k r => .next (s.withScript (setFrameScript a c k r ++ rest))
  | .send code pauses =>
    .next ((s.withScript rest).withCall (some ⟨code, s.host.storeRead, .setControl, pauses⟩))

/-- The step while `rst = 0`. A host inside a SendControlCode does nothing else until it returns (R177); a host
with nothing left to do lets time pass. -/
def State.hostStep (s : State) : Host.Outcome State Fault Refusal :=
  match s.host.call with
  | some p => s.sendStep p
  | none =>
    match s.host.script with
    | [] => s.lineTick
    | a :: rest => s.act rest a

/-! Reset (R200), which can come at any step (R12). -/

/-- The coming resets, `n` steps later. -/
def laterResets (n : Nat) : List Nat → List Nat
  | [] => []
  | k :: rest => (k - n) :: rest

/-- One of the steps before the next reset is taken. -/
def State.elapse (s : State) : State := { s with host := { s.host with resets := laterResets 1 s.host.resets } }

/-- What a cycle with `rst = 1` leaves of the host (log 17): the store (R200); a SendControlCode only if its
transmission was over, so one that is cut short never writes the store (R175, R202); and the actions to come, but
for a command offered in that very cycle, which is not accepted (R185). A held command stays held (R177). A word
that goes from the port leaves it empty for a tick, so no other takes its place while it waits (R177). -/
def HostSide.afterReset (h : HostSide) (b : Block) : HostSide where
  store := h.store
  call := h.call.filter (·.sent b)
  script :=
    match h.call with
    | some p => if p.word.isSome then .pass 1 :: h.script else h.script
    | none =>
      match h.script with
      | .offer _ :: rest => .pass 1 :: rest
      | l => l
  resets := h.resets.tail

/-- The reset step (R200, R202). -/
def State.resetStep (s : State) : State := ⟨Block.reset, s.host.afterReset s.block⟩

/-- The next step. Reset wins over a command and over a tick in the same cycle (R185, R200). -/
def State.nextStep (s : State) : Host.Outcome State Fault Refusal :=
  if s.rst then .next s.resetStep else s.elapse.hostStep

/-! Placing an instruction so that the next step runs it (log 12). -/

/-- The block with no transmission running, so that it accepts a command (R206). -/
def Block.idled (b : Block) : Block := { b with busy := false, seg := 0#10, rem := 0#16 }

/-- The host outside any SendControlCode, with `a` as its next action, and each reset one step later. -/
def HostSide.next (h : HostSide) (a : HostAction) : HostSide where
  store := h.store
  call := none
  script := a :: h.script
  resets :=
    match h.resets with
    | [] => []
    | k :: rest => (k + 1) :: rest

/-- A payload whose wire bit 0 lets symbol `x` stand at its first place in the pulse program (R81, R82). -/
def Buf.forSymbol (P : Buf) : Symbol → Buf
  | .bit1 => { P with b0 := P.b0 ||| 0x80#8 }
  | .bit0 => { P with b0 := P.b0 &&& 0x7F#8 }
  | _ => P

/-- The block in a transmission, at the first tick of the first place of symbol `x`. -/
def Block.atSymbol (b : Block) (x : Symbol) : Block :=
  let P := Buf.forSymbol b.pb x
  { b with
    pb := P
    busy := true
    seg := BitVec.ofNat 10 x.firstSegment
    rem := BitVec.ofNat 16 (segAt P x.firstSegment).duration }

/-- The state whose next step fetches the code word `c`. -/
def State.place (s : State) : CodeWord → State
  | .command w => ⟨s.block.idled, s.host.next (.present w)⟩
  | .plain w => ⟨s.block, s.host.next (.frame w)⟩
  | .pulses g =>
    match Symbol.all.find? (fun x => x.segments == g) with
    | some x => ⟨s.block.atSymbol x, s.host.next (.pass 1)⟩
    | none => s

end Sys2Proof.Machine
end

