-- ==== Sys2Proof/Machine/Step.lean ====
section
/-! DEFINITION. The step, and placing a word of the opcode table where the step fetches next. -/

namespace Sys2Proof.Machine

/-- One of R12's steps: a reset if `rst = 1`, else a command step or a tick step as the host's next action says;
the host's own actions between them take no time (log 3). -/
def step (s : State) : Host.Outcome State Fault Refusal := s.nextStep

/-- The state with a word of the opcode table placed where the next step fetches it (log 12). A number that is no
word of the table places nothing. -/
def State.withFetchWord (s : State) (nbits w : Nat) : State :=
  match tableCodeWord nbits w with
  | some c => s.place c
  | none => s

end Sys2Proof.Machine
end

