-- ==== Sys2Proof/Machine/Waveform.lean ====
section
/-! DEFINITION. The waveform of a transmission as a function of time (R147, R152), its totals (R151), its maximal
runs, and the reference sampling decoder (R135), which the spec gives for testing. -/

namespace Sys2Proof

/-- The level at tick `k` of a list of segments: segment after segment, each for its duration (R147, R152). -/
def levelAt : List Segment → Nat → Bool
  | [], _ => false
  | g :: rest, k => if k < g.duration then g.level else levelAt rest (k - g.duration)

/-- `w(k)` (R152). -/
def wave (P : Buf) (k : Nat) : Bool := levelAt (segments P) k

/-- The duration of a list of segments. -/
def totalTicks (l : List Segment) : Nat := (l.map Segment.duration).sum

/-- The ticks a list of segments spends high (R151). -/
def highTicks (l : List Segment) : Nat := (l.map fun g => if g.level then g.duration else 0).sum

/-- Adjacent segments of equal level are one longer run on the line (R147, R152). -/
def mergeRuns : List Segment → List Segment
  | [] => []
  | g :: rest =>
    match mergeRuns rest with
    | [] => [g]
    | h :: more => if g.level == h.level then ⟨g.level, g.duration + h.duration⟩ :: more else g :: h :: more

/-- The start of frame `r`'s payload, `t0` (R150). -/
def payloadStart (r : Nat) : Nat := 63440 + 141120 * r

/-- Bit `n` as the reference decoder samples it: the level in the middle of the symbol's second half (R135). -/
def sampledBit (w : Nat → Bool) (t0 n : Nat) : Bool := w (t0 + 1280 * n + 960)

/-- A byte from its bits, most significant first. -/
def byteOfBits (f : Nat → Bool) : Byte :=
  BitVec.ofBool (f 0) ++ BitVec.ofBool (f 1) ++ BitVec.ofBool (f 2) ++ BitVec.ofBool (f 3)
    ++ BitVec.ofBool (f 4) ++ BitVec.ofBool (f 5) ++ BitVec.ofBool (f 6) ++ BitVec.ofBool (f 7)

/-- The payload the reference decoder reads from a waveform, for a payload that starts at `t0` (R135). -/
def sampledPayload (w : Nat → Bool) (t0 : Nat) : Buf where
  b0 := byteOfBits fun i => sampledBit w t0 i
  b1 := byteOfBits fun i => sampledBit w t0 (8 + i)
  b2 := byteOfBits fun i => sampledBit w t0 (16 + i)
  b3 := byteOfBits fun i => sampledBit w t0 (24 + i)
  b4 := byteOfBits fun i => sampledBit w t0 (32 + i)
  b5 := byteOfBits fun i => sampledBit w t0 (40 + i)
  b6 := byteOfBits fun i => sampledBit w t0 (48 + i)

end Sys2Proof
end

