-- ==== Sys2Proof/Safety.lean ====
section
/-! DEFINITION. The terms of claims about runs: the block's invariant, the end of a run, and many ticks. -/

namespace Sys2Proof.Machine

/-- What holds of the block in every state a run reaches. -/
structure Block.Inv (b : Block) : Prop where
  /-- While `BUSY = 0`, `SEG` and `REM` are 0 (R27). -/
  idle : b.busy = false → b.seg = 0#10 ∧ b.rem = 0#16
  /-- While `BUSY = 1`, `SEG` is 0 to 755 and `REM` is 1 to the running segment's duration (R27). -/
  running : b.busy = true →
    b.seg.toNat ≤ 755 ∧ 1 ≤ b.rem.toNat ∧ b.rem.toNat ≤ (segAt b.pb b.seg.toNat).duration
  /-- `DV` and `CE` are never both 1 (R25). -/
  flags : ¬(b.dv = true ∧ b.ce = true)
  /-- `PB`'s last byte has two equal nibbles: it is a payload Serialize gave, or all zero (R23, R32, R124). -/
  payload : hiNibble b.pb.b6 = loNibble b.pb.b6
  /-- What is being sent is the frame in `FR` (R62). -/
  sending : b.busy = true → b.pb = serialize b.fr

/-- An action that issues a command, or more than one. -/
def HostAction.issues : HostAction → Bool
  | .present _ => true
  | .offer _ => true
  | .frame _ => true
  | .pass _ => false
  | .wait => false
  | .startUp => true
  | .setFrame _ _ _ _ => true
  | .send _ _ => true

/-- The host has a further command to issue, in the SendControlCode it is in or after it. -/
def HostSide.moreCommands (h : HostSide) : Bool :=
  h.call.any (fun p => p.command.isSome) || h.script.any HostAction.issues

/-- The end of a run (R215): the host has no further command to issue and `BUSY = 0`. That the store has been
written it does not say. -/
def State.EndOfRun (s : State) : Prop := s.host.moreCommands = false ∧ s.block.busy = false

/-- The host's own end of a run: nothing is left to do, step 4 of a SEND included (R215). -/
def State.HostEndOfRun (s : State) : Prop :=
  s.host.call = none ∧ s.host.script = [] ∧ s.block.busy = false

/-- The host asserts no `rst` in the next `n` steps. -/
def State.NoResetFor (s : State) (n : Nat) : Prop := ∀ k rest, s.host.resets = k :: rest → n ≤ k

/-- Instructions one after another, with no tick between them. -/
def State.execAll (s : State) : List Instr → Host.Outcome State Fault Refusal
  | [] => .next s
  | i :: rest =>
    match exec i s with
    | .next t => t.execAll rest
    | .fault r => .fault r
    | .refused r => .refused r

/-- The block after `n` tick steps. -/
def Block.ticks (b : Block) : Nat → Block
  | 0 => b
  | n + 1 => (b.tick).ticks n

/-- The ticks a busy block still has before its transmission ends (R148, R214). -/
def Block.remaining (b : Block) : Nat :=
  if b.busy then tTotal - segStart (b.seg.toNat + 1) + b.rem.toNat else 0

end Sys2Proof.Machine
end

