-- ==== Sys2Proof/Certificates/Slice0/Obligations.lean ====
section
/-! DEFINITION. The statements for the provers. `log n` is notes/assumptions/n.md. -/

open Sys2Proof Sys2Proof.Machine

/-! ## Reset -/

/-- R200: while `rst = 1` the state holds the reset values, for any number of cycles, whatever the host does or was
doing; the host's store is kept. -/
def Obligations.ResetHoldsZeroWhileAsserted : Prop :=
  ∀ (s : State) (n : Nat) (rest : List Nat),
    s.host.resets = List.replicate (n + 1) 0 ++ rest →
    ∃ t : State, Host.Core.run core (n + 1) s = .next t ∧
      t.block.fr = ⟨0#4, 0#4, 0#16, 0#24⟩ ∧ t.block.pb = ⟨0#8, 0#8, 0#8, 0#8, 0#8, 0#8, 0#8⟩ ∧
      t.block.df = ⟨0#4, 0#4, 0#16, 0#24⟩ ∧ t.block.dv = false ∧ t.block.ce = false ∧ t.block.busy = false ∧
      t.block.seg = 0#10 ∧ t.block.rem = 0#16 ∧ t.block.tx = false ∧ t.block.cmdReady = true ∧
      t.host.store = s.host.store ∧ t.host.resets = rest

/-- R32: the values after reset; the store holds the open parameter `STORE_INIT` (log 4). -/
def Obligations.ResetStateHoldsTheTableOfR32 : Prop :=
  State.reset.block.fr = ⟨0#4, 0#4, 0#16, 0#24⟩ ∧
  State.reset.block.pb = ⟨0#8, 0#8, 0#8, 0#8, 0#8, 0#8, 0#8⟩ ∧
  State.reset.block.df = ⟨0#4, 0#4, 0#16, 0#24⟩ ∧ State.reset.block.dv = false ∧ State.reset.block.ce = false ∧
  State.reset.block.busy = false ∧ State.reset.block.seg = 0#10 ∧ State.reset.block.rem = 0#16 ∧
  State.reset.block.tx = false ∧ State.reset.host.store = Config.storeInit

/-- R202, R175, R210: `rst` at any of the 874720 ticks of a SEND's transmission, whatever ticks the host lets pass
before its commands. Up to it the block is busy and the
store unwritten; it clears the block and drops the line, and the SEND never writes the store, so a SEND that follows
reads the same value. The model's choices: the numbers of steps count SEND's StoreRead as a step of no ticks
(log 3), its two SETs come in either order but are two steps (log 13), and the host returns from a SEND whose
transmission is cut short (log 17). -/
def Obligations.ResetAbandonsASend : Prop :=
  ∀ (s : State) (code : ControlCode) (pauses : List Nat) (n m : Nat) (rest : List HostAction) (rs : List Nat),
    n < 874720 → s.block.busy = false → s.host.call = none → s.host.script = .send code pauses :: rest →
    m = pauses.getD 0 0 + pauses.getD 1 0 + pauses.getD 2 0 + 4 + n → s.host.resets = m :: rs →
    ∃ t u : State, Host.Core.run core m s = .next t ∧ t.block.busy = true ∧ t.rst = true ∧
      t.host.store = s.host.store ∧ step t = .next u ∧ u.block = Block.reset ∧ u.block.tx = false ∧
      u.host = ⟨s.host.store, none, rest, rs⟩ ∧
      ∀ (code' : ControlCode) (l : List Nat) (more : List HostAction), rest = .send code' l :: more →
        u.rst = false → ∃ v : State, step u = .next v ∧ v.host.call = some ⟨code', s.host.store, .setControl, l⟩

/-! ## Frame-field commands -/

/-- R100: NOP writes nothing, whatever its operand bits, and no command at all does the same: an idle block does not
change while the host has nothing to do, lets ticks pass, also between the commands of a SEND, or waits. That a step takes one of the host's actions is the
model's choice (log 3). -/
def Obligations.NopWritesNothing : Prop :=
  (∀ arg : BitVec 56, decode (.command (0#3 ++ arg)) = .ok .nop) ∧
  ∀ s : State, s.block.busy = false →
    exec .nop s = .next s ∧
    (s.rst = false → s.host.call = none →
      (s.host.script = [] → step s = .next s.elapse) ∧
      (∀ n rest, s.host.script = .pass (n + 1) :: rest → step s = .next (s.elapse.withScript (.pass n :: rest))) ∧
      (∀ rest, s.host.script = .wait :: rest → step s = .next (s.elapse.withScript rest))) ∧
    (s.rst = false → ∀ p, s.host.call = some p → p.pause ≠ 0 →
      step s = .next (s.elapse.withCall (some p.paused))) ∧
    s.elapse.block = s.block ∧ (∀ l : List HostAction, (s.elapse.withScript l).block = s.block) ∧
    ∀ p : SendCall, (s.elapse.withCall (some p)).block = s.block

/-- R101: SET_COUNTER stores the low 4 bits of its 32-bit operand in `FR.counter` and writes nothing else. -/
def Obligations.SetCounterStoresItsLowFourBits : Prop :=
  (∀ arg : BitVec 56, decode (.command (1#3 ++ arg)) = .ok (.setCounter (BitVec.ofNat 32 arg.toNat))) ∧
  ∀ (v : BitVec 32) (s : State), s.block.busy = false →
    exec (.setCounter v) s = .next
      { s with block := { s.block with fr := { s.block.fr with counter := BitVec.ofNat 4 v.toNat } } }

/-- R102: SET_CONTROL, likewise, for `FR.control`; no value is rejected. -/
def Obligations.SetControlStoresItsLowFourBits : Prop :=
  (∀ arg : BitVec 56, decode (.command (2#3 ++ arg)) = .ok (.setControl (BitVec.ofNat 32 arg.toNat))) ∧
  ∀ (v : BitVec 32) (s : State), s.block.busy = false →
    exec (.setControl v) s = .next
      { s with block := { s.block with fr := { s.block.fr with control := BitVec.ofNat 4 v.toNat } } }

/-- R103: SET_ROLLING, likewise, with 16 bits of `FR.rolling`. -/
def Obligations.SetRollingStoresItsLowSixteenBits : Prop :=
  (∀ arg : BitVec 56, decode (.command (3#3 ++ arg)) = .ok (.setRolling (BitVec.ofNat 32 arg.toNat))) ∧
  ∀ (v : BitVec 32) (s : State), s.block.busy = false →
    exec (.setRolling v) s = .next
      { s with block := { s.block with fr := { s.block.fr with rolling := BitVec.ofNat 16 v.toNat } } }

/-- R104: SET_ADDRESS, likewise, with 24 bits of `FR.address`. -/
def Obligations.SetAddressStoresItsLowTwentyFourBits : Prop :=
  (∀ arg : BitVec 56, decode (.command (4#3 ++ arg)) = .ok (.setAddress (BitVec.ofNat 32 arg.toNat))) ∧
  ∀ (v : BitVec 32) (s : State), s.block.busy = false →
    exec (.setAddress v) s = .next
      { s with block := { s.block with fr := { s.block.fr with address := BitVec.ofNat 24 v.toNat } } }

/-- R105: SETs of different fields commute, a later SET of the same field overrides, and the four together, in
any order, determine `FR` whatever it held, and change nothing else. -/
def Obligations.SetCommandsCommuteAndOverride : Prop :=
  ∀ (s : State) (c k r a v : BitVec 32), s.block.busy = false →
    (∀ l : List Instr, l.Perm [.setCounter c, .setControl k, .setRolling r, .setAddress a] →
      s.execAll l = .next { s with block := { s.block with
        fr := ⟨BitVec.ofNat 4 c.toNat, BitVec.ofNat 4 k.toNat, BitVec.ofNat 16 r.toNat, BitVec.ofNat 24 a.toNat⟩ } }) ∧
    (∀ i j : Instr, [i, j].Sublist [.setCounter c, .setControl k, .setRolling r, .setAddress a] →
      s.execAll [i, j] = s.execAll [j, i]) ∧
    s.execAll [.setCounter v, .setCounter c] = s.execAll [.setCounter c] ∧
    s.execAll [.setControl v, .setControl k] = s.execAll [.setControl k] ∧
    s.execAll [.setRolling v, .setRolling r] = s.execAll [.setRolling r] ∧
    s.execAll [.setAddress v, .setAddress a] = s.execAll [.setAddress a]

/-! ## The codec -/

/-- R110: the checksum is the exclusive or of all fourteen nibbles. -/
def Obligations.ChecksumIsTheXorOfAllNibbles : Prop :=
  ∀ B : Buf, checksum B =
    hiNibble B.b0 ^^^ loNibble B.b0 ^^^ hiNibble B.b1 ^^^ loNibble B.b1 ^^^ hiNibble B.b2 ^^^ loNibble B.b2 ^^^
    hiNibble B.b3 ^^^ loNibble B.b3 ^^^ hiNibble B.b4 ^^^ loNibble B.b4 ^^^ hiNibble B.b5 ^^^ loNibble B.b5 ^^^
    hiNibble B.b6 ^^^ loNibble B.b6

/-- R111: inserting the checksum makes the whole buffer's checksum zero, and a checksum of zero says exactly that
the stored nibble is the exclusive or of the other thirteen. -/
def Obligations.InsertedChecksumMakesTheSumZero : Prop :=
  (∀ B : Buf, loNibble B.b1 = 0#4 → checksum { B with b1 := B.b1 ||| (checksum B).setWidth 8 } = 0#4) ∧
  ∀ B : Buf, checksum B = 0#4 ↔ loNibble B.b1 =
    hiNibble B.b0 ^^^ loNibble B.b0 ^^^ hiNibble B.b1 ^^^ hiNibble B.b2 ^^^ loNibble B.b2 ^^^
    hiNibble B.b3 ^^^ loNibble B.b3 ^^^ hiNibble B.b4 ^^^ loNibble B.b4 ^^^ hiNibble B.b5 ^^^ loNibble B.b5 ^^^
    hiNibble B.b6 ^^^ loNibble B.b6

/-- R112, R113: byte `i` of the payload is the exclusive or of plain bytes 0 to `i`; back again, byte 0 is kept
and every other byte is combined with the received byte before it. -/
def Obligations.ScramblerHasItsClosedForms : Prop :=
  (∀ (B : Buf) (i : Nat), i < 7 →
    (obfuscate B).byte i = (B.bytes.take (i + 1)).foldl (fun x y => x ^^^ y) 0#8) ∧
  ∀ P : Buf, (deobfuscate P).byte 0 = P.byte 0 ∧
    ∀ i : Nat, i < 6 → (deobfuscate P).byte (i + 1) = P.byte (i + 1) ^^^ P.byte i

/-- R114: the scrambler and its reverse are inverse to each other, and all three functions are linear. -/
def Obligations.ScramblerIsInvertibleAndLinear : Prop :=
  ∀ X Y : Buf,
    deobfuscate (obfuscate X) = X ∧ obfuscate (deobfuscate X) = X ∧
    obfuscate (X.xor Y) = (obfuscate X).xor (obfuscate Y) ∧
    deobfuscate (X.xor Y) = (deobfuscate X).xor (deobfuscate Y) ∧
    checksum (X.xor Y) = checksum X ^^^ checksum Y

/-- R73, R75, R115: deobfuscating what Serialize gives shows the layout of R73 with the computed checksum in
place. -/
def Obligations.SerializedFrameHasTheLayoutOfR73 : Prop :=
  ∀ F : Frame, ∃ c : Nibble, c = checksum (layout F 0#4) ∧
    (deobfuscate (serialize F)).b0 = 0xA#4 ++ F.counter ∧
    (deobfuscate (serialize F)).b1 = F.control ++ c ∧
    (deobfuscate (serialize F)).b2 ++ (deobfuscate (serialize F)).b3 = F.rolling ∧
    (deobfuscate (serialize F)).b6 ++ (deobfuscate (serialize F)).b5 ++ (deobfuscate (serialize F)).b4 = F.address

/-- R116: SERIALIZE registers the serialized frame in `PB` and writes nothing else; the line stays low. After
reset that is `A0 AA AA AA AA AA AA`. -/
def Obligations.SerializeRegistersThePayload : Prop :=
  (∀ arg : BitVec 56, decode (.command (5#3 ++ arg)) = .ok .serialize) ∧
  (∀ s : State, s.block.busy = false →
    exec .serialize s = .next { s with block := { s.block with pb := serialize s.block.fr } } ∧
    ({ s.block with pb := serialize s.block.fr } : Block).tx = false) ∧
  serialize ⟨0#4, 0#4, 0#16, 0#24⟩ = ⟨0xA0#8, 0xAA#8, 0xAA#8, 0xAA#8, 0xAA#8, 0xAA#8, 0xAA#8⟩

/-- R118: DESERIALIZE's two outcomes; in neither is anything written but what is shown. -/
def Obligations.DeserializeAcceptsOrSignals : Prop :=
  (∀ arg : BitVec 56, decode (.command (6#3 ++ arg)) = .ok (.deserialize arg)) ∧
  (∀ (p : BitVec 56) (i j : Nat), i < 7 → j < 8 →
    ((Buf.ofVec p).byte i).getLsbD j = p.getLsbD (48 - 8 * i + j)) ∧
  ∀ (p : BitVec 56) (s : State), s.block.busy = false →
    (checksum (deobfuscate (Buf.ofVec p)) = 0#4 →
      exec (.deserialize p) s = .next { s with block := { s.block with
        df := ⟨loNibble (deobfuscate (Buf.ofVec p)).b0, hiNibble (deobfuscate (Buf.ofVec p)).b1,
          (deobfuscate (Buf.ofVec p)).b2 ++ (deobfuscate (Buf.ofVec p)).b3,
          (deobfuscate (Buf.ofVec p)).b6 ++ (deobfuscate (Buf.ofVec p)).b5 ++ (deobfuscate (Buf.ofVec p)).b4⟩,
        dv := true, ce := false } }) ∧
    (checksum (deobfuscate (Buf.ofVec p)) ≠ 0#4 →
      exec (.deserialize p) s = .next { s with block := { s.block with dv := false, ce := true } })

/-- R181, R180, R187: `InvalidChecksum`, in terms of the payload's last byte: `DV <- 0`, `CE <- 1`, nothing else,
the block goes on accepting commands, `CE` read as a number is the exception's code, a later success clears it,
and no instruction but a DESERIALIZE does. -/
def Obligations.InvalidChecksumIsTaken : Prop :=
  ∀ (p : BitVec 56) (s : State), s.block.busy = false → p.extractLsb' 4 4 ≠ p.extractLsb' 0 4 →
    exec (.deserialize p) s = .next { s with block := { s.block with dv := false, ce := true } } ∧
    ({ s.block with dv := false, ce := true } : Block).cmdReady = true ∧
    ({ s.block with dv := false, ce := true } : Block).ce.toNat = causeCode .invalidChecksum ∧
    (∀ q : BitVec 56, q.extractLsb' 4 4 = q.extractLsb' 0 4 →
      ∃ t : State, s.execAll [.deserialize p, .deserialize q] = .next t ∧ t.block.dv = true ∧ t.block.ce = false) ∧
    ∀ (i : Instr) (t u : State), t.block.ce = true → (∀ r, i ≠ .deserialize r) → exec i t = .next u →
      u.block.ce = true

/-- R119: a payload is accepted if and only if the two nibbles of its last byte are equal. -/
def Obligations.PayloadValidIffLastNibblesEqual : Prop :=
  ∀ P : Buf, checksum (deobfuscate P) = hiNibble P.b6 ^^^ loNibble P.b6 ∧
    ((∃ F, deserialize P = .ok F) ↔ hiNibble P.b6 = loNibble P.b6)

/-- R120: nothing else is checked: any plain buffer whose checksum is zero decodes to its fields. -/
def Obligations.DeserializeChecksNothingElse : Prop :=
  ∀ (h c k : Nibble) (r : BitVec 16) (a : BitVec 24), ∃ P : Buf,
    hiNibble P.b0 = h ∧ deserialize P = .ok ⟨c, k, r, a⟩

/-- R121: round trip, for every frame, and for the block: SERIALIZE, then DESERIALIZE of `payload_out`. -/
def Obligations.SerializeThenDeserializeIsTheIdentity : Prop :=
  (∀ F : Frame, deserialize (serialize F) = .ok F) ∧
  ∀ s : State, s.block.busy = false →
    s.execAll [.serialize, .deserialize (serialize s.block.fr).vec] = .next { s with block := { s.block with
      pb := serialize s.block.fr, df := s.block.fr, dv := true, ce := false } }

/-- R122: the reverse round trip holds exactly for the accepted payloads whose first nibble is 0xA. -/
def Obligations.ReverseRoundTripIffAcceptedAndMarked : Prop :=
  ∀ P : Buf, (∃ F, deserialize P = .ok F ∧ serialize F = P) ↔
    ((∃ F, deserialize P = .ok F) ∧ hiNibble P.b0 = 0xA#4)

/-- R123: an error pattern on a valid payload is detected if and only if the two nibbles of its last byte differ;
a single-bit error if and only if it lies in byte 6. -/
def Obligations.ErrorDetectedIffLastNibblesDiffer : Prop :=
  ∀ P : Buf, (∃ F, deserialize P = .ok F) →
    (∀ E : Buf, deserialize (P.xor E) = .error .invalidChecksum ↔ hiNibble E.b6 ≠ loNibble E.b6) ∧
    ∀ n : Nat, n < 56 → (deserialize (Buf.ofVec (P.vec ^^^ (1#56 <<< (55 - n)))) = .error .invalidChecksum ↔ 48 ≤ n)

/-- R124: `P[0]` depends on the counter only, changing only the counter changes only `P[0]`, and `P[6]` has equal
nibbles. -/
def Obligations.CounterShowsInByteZeroOnly : Prop :=
  ∀ (F : Frame) (c : Nibble),
    (serialize F).b0 = 0xA#4 ++ F.counter ∧
    serialize { F with counter := c } = { serialize F with b0 := 0xA#4 ++ c } ∧
    hiNibble (serialize F).b6 = loNibble (serialize F).b6

/-- R54, R9: wire bit `n` is bit `55 - n` of the payload vector, and the first four wire bits of every frame the
block sends are 1, 0, 1, 0. -/
def Obligations.WireOrderIsMostSignificantFirst : Prop :=
  (∀ (P : Buf) (n : Nat), n < 56 → wbit P n = P.vec.getLsbD (55 - n)) ∧
  ∀ F : Frame, wbit (serialize F) 0 = true ∧ wbit (serialize F) 1 = false ∧ wbit (serialize F) 2 = true ∧
    wbit (serialize F) 3 = false

/-! ## TRANSMIT, the sequencer and the line -/

/-- R146: TRANSMIT's command step. While a transmission runs a second one is not accepted; that executing it then is
the tick step is the model's choice (log 6). The payloads are those of the rule's corner case and example. -/
def Obligations.TransmitStartsAtSegmentZero : Prop :=
  (∀ arg : BitVec 56, decode (.command (7#3 ++ arg)) = .ok .transmit) ∧
  (∀ s : State, s.block.busy = false →
    exec .transmit s = .next { s with block := { s.block with
      pb := serialize s.block.fr, busy := true, seg := 0#10, rem := 10000#16 } } ∧
    ({ s.block with pb := serialize s.block.fr, busy := true, seg := 0#10, rem := 10000#16 } : Block).tx = true) ∧
  (∀ s : State, s.block.busy = true → exec .transmit s = .next s.tick) ∧
  serialize ⟨0#4, 0#4, 0#16, 0#24⟩ = ⟨0xA0#8, 0xAA#8, 0xAA#8, 0xAA#8, 0xAA#8, 0xAA#8, 0xAA#8⟩ ∧
  serialize ⟨7#4, 8#4, 51#16, 0xC0FFEE#24⟩ = ⟨0xA7#8, 0x2E#8, 0x2E#8, 0x1D#8, 0xF3#8, 0x0C#8, 0xCC#8⟩

/-- R147: the tick step, branch by branch; R28: the line level that follows from a state. -/
def Obligations.TickStepAndLineLevel : Prop :=
  ∀ b : Block,
    (b.busy = false → b.tick = b) ∧
    (b.busy = true → 1 < b.rem.toNat → b.tick = { b with rem := BitVec.ofNat 16 (b.rem.toNat - 1) }) ∧
    (b.busy = true → b.rem = 1#16 → b.seg.toNat < 755 → b.tick = { b with
      seg := BitVec.ofNat 10 (b.seg.toNat + 1)
      rem := BitVec.ofNat 16 (segAt b.pb (b.seg.toNat + 1)).duration }) ∧
    (b.busy = true → b.rem = 1#16 → b.seg.toNat = 755 → b.tick = { b with busy := false, seg := 0#10, rem := 0#16 }) ∧
    (b.busy = true → b.tx = (segAt b.pb b.seg.toNat).level) ∧ (b.busy = false → b.tx = false)

/-- R131: the Manchester table and its one expression; and the two symbols: a 1 is low then high, a 0 is high then
low, each for 640. -/
def Obligations.ManchesterTableIsR131 : Prop :=
  manch true false = false ∧ manch true true = true ∧ manch false false = true ∧ manch false true = false ∧
  (∀ b h : Bool, manch b h = !(b ^^ h)) ∧
  ∀ b : Bool, (bitSymbol b).segments = [⟨manch b false, 640⟩, ⟨manch b true, 640⟩]

/-- R134: a level change in the middle of every symbol, and one between two symbols exactly when their bits are
equal. -/
def Obligations.ManchesterLevelChanges : Prop :=
  ∀ P : Buf,
    (∀ n : Nat, n < 56 → (payloadSegment P (2 * n)).level ≠ (payloadSegment P (2 * n + 1)).level) ∧
    ∀ n : Nat, n < 55 → ((payloadSegment P (2 * n + 1)).level ≠ (payloadSegment P (2 * (n + 1))).level ↔
      wbit P n = wbit P (n + 1))

/-- R142, R133: the table of segments, row by row. -/
def Obligations.SegmentTableIsR142 : Prop :=
  ∀ P : Buf,
    (segAt P 0 = ⟨true, 10000⟩ ∧ segStart 0 = 0) ∧ (segAt P 1 = ⟨false, 38000⟩ ∧ segStart 1 = 10000) ∧
    (∀ j, j < 4 → segAt P (2 + j) = ⟨j % 2 == 0, 2500⟩ ∧ segStart (2 + j) = 48000 + 2500 * j) ∧
    (segAt P 6 = ⟨true, 4800⟩ ∧ segStart 6 = 58000) ∧ (segAt P 7 = ⟨false, 640⟩ ∧ segStart 7 = 62800) ∧
    (∀ q, q < 112 → segAt P (8 + q) = ⟨manch (wbit P (q / 2)) (q % 2 == 1), 640⟩ ∧
      segStart (8 + q) = 63440 + 640 * q) ∧
    (segAt P 120 = ⟨false, 34000⟩ ∧ segStart 120 = 135120) ∧
    ∀ r, 1 ≤ r → r ≤ 5 →
      (∀ j, j < 12 → segAt P (121 + 127 * (r - 1) + j) = ⟨j % 2 == 0, 2500⟩ ∧
        segStart (121 + 127 * (r - 1) + j) = 169120 + 141120 * (r - 1) + 2500 * j) ∧
      (segAt P (121 + 127 * (r - 1) + 12) = ⟨true, 4800⟩ ∧
        segStart (121 + 127 * (r - 1) + 12) = 169120 + 141120 * (r - 1) + 30000) ∧
      (segAt P (121 + 127 * (r - 1) + 13) = ⟨false, 640⟩ ∧
        segStart (121 + 127 * (r - 1) + 13) = 169120 + 141120 * (r - 1) + 34800) ∧
      (∀ q, q < 112 → segAt P (121 + 127 * (r - 1) + 14 + q) = ⟨manch (wbit P (q / 2)) (q % 2 == 1), 640⟩ ∧
        segStart (121 + 127 * (r - 1) + 14 + q) = 169120 + 141120 * (r - 1) + 35440 + 640 * q) ∧
      (segAt P (121 + 127 * (r - 1) + 126) = ⟨false, 34000⟩ ∧
        segStart (121 + 127 * (r - 1) + 126) = 169120 + 141120 * (r - 1) + 107120)

/-- R142, R150: the start time of a segment is the sum of the durations before it; the last one ends at 874720. -/
def Obligations.StartTimesAreSumsOfDurations : Prop :=
  ∀ P : Buf, ∀ s, s ≤ 756 → segStart s = totalTicks ((segments P).take s)

/-- R145, R144: the procedure's 1512 calls are the table's segments, pair by pair. -/
def Obligations.CallProcedureEqualsSegmentTable : Prop :=
  ∀ P : Buf, calls P = ((segments P).map Segment.calls).flatten ∧ (calls P).length = 1512

/-- R82: the string of 381 symbols is the table of segments. -/
def Obligations.SymbolStringEqualsSegmentTable : Prop :=
  ∀ P : Buf, ((transmissionSymbols P).map Symbol.segments).flatten = segments P ∧
    (transmissionSymbols P).length = 381

/-- R151, R134: a transmission lasts 874720 ticks, 333840 of them high, for every payload. -/
def Obligations.TotalsAreTheSameForEveryPayload : Prop :=
  ∀ P : Buf, totalTicks (segments P) = 874720 ∧ highTicks (segments P) = 333840

/-- R149: data selects only the level of payload half-bits: two payloads have the same durations everywhere and
the same levels outside the payload's rows. -/
def Obligations.DataSelectsOnlyPayloadLevels : Prop :=
  ∀ (P Q : Buf) (s : Nat), (segAt P s).duration = (segAt Q s).duration ∧
    ((symbolAt P s = some (.bit1, 0) ∨ symbolAt P s = some (.bit1, 1) ∨ symbolAt P s = some (.bit0, 0) ∨
      symbolAt P s = some (.bit0, 1)) ∨ segAt P s = segAt Q s)

/-- R145, R147: after a TRANSMIT, `start(s) + k` ticks lead to segment `s` with `duration - k` ticks left, and
nothing else has changed: the tick machine holds each segment's level for exactly its duration, in order. -/
def Obligations.TickMachineFollowsTheSegmentTable : Prop :=
  ∀ (b : Block) (s k : Nat), s < 756 → k < (segAt (serialize b.fr) s).duration →
    b.startTransmission.ticks (segStart s + k) = { b.startTransmission with
      seg := BitVec.ofNat 10 s
      rem := BitVec.ofNat 16 ((segAt (serialize b.fr) s).duration - k) }

/-- R148: after exactly 874720 ticks the block is idle and the rest of its state is what TRANSMIT left; before
that it is busy. -/
def Obligations.TransmissionEndsAfterItsTicks : Prop :=
  ∀ b : Block,
    b.startTransmission.ticks 874720 =
      { b.startTransmission with busy := false, seg := 0#10, rem := 0#16 } ∧
    (b.startTransmission.ticks 874720).tx = false ∧ (b.startTransmission.ticks 874720).cmdReady = true ∧
    ∀ n, n < 874720 → (b.startTransmission.ticks n).busy = true

/-- R147, R152: the level shown during the k-th tick is the waveform of the payload. -/
def Obligations.LineShowsTheWaveform : Prop :=
  ∀ (b : Block) (k : Nat), k < 874720 →
    (b.startTransmission.ticks k).tx = wave (serialize b.fr) k

/-- R135: sampled in the middle of every second half, each of the six frames on the line gives the payload, which
deserializes to the frame that was sent. -/
def Obligations.SamplingTheLineRecoversTheFrame : Prop :=
  ∀ (b : Block) (r : Nat), r < 6 →
    sampledPayload (fun k => (b.startTransmission.ticks k).tx) (payloadStart r) = serialize b.fr ∧
    deserialize (sampledPayload (fun k => (b.startTransmission.ticks k).tx) (payloadStart r)) = .ok b.fr

/-- R214: from every state a run can reach, a busy block is idle after exactly the ticks it has left. -/
def Obligations.EveryTransmissionTerminates : Prop :=
  ∀ b : Block, b.Inv → b.busy = true →
    (b.ticks b.remaining).busy = false ∧ ∀ n, n < b.remaining → (b.ticks n).busy = true

/-! ## Line symbols and wire frames -/

/-- What R81's symbol `x` with segments `l`, as instruction `i`, does in a microsecond while it is on the line:
the line shows its segment's level, and the segment counts down, gives way to the symbol's next, or ends it. -/
def Sys2Proof.Machine.RunsOnLine (i : Instr) (x : Symbol) (l : List Segment) (s : State) : Prop :=
  ∀ k g, symbolAt s.block.pb s.block.seg.toNat = some (x, k) → l[k]? = some g →
    s.block.tx = g.level ∧
    (1 < s.block.rem.toNat →
      exec i s = .next { s with block := { s.block with rem := BitVec.ofNat 16 (s.block.rem.toNat - 1) } }) ∧
    (s.block.rem = 1#16 → ∀ h, l[k + 1]? = some h → exec i s = .next { s with block := { s.block with
      seg := BitVec.ofNat 10 (s.block.seg.toNat + 1), rem := BitVec.ofNat 16 h.duration } }) ∧
    (s.block.rem = 1#16 → l.length = k + 1 → s.block.seg.toNat < 755 → exec i s = .next { s with
      block := { s.block with
        seg := BitVec.ofNat 10 (s.block.seg.toNat + 1)
        rem := BitVec.ofNat 16 (segAt s.block.pb (s.block.seg.toNat + 1)).duration } }) ∧
    (s.block.rem = 1#16 → l.length = k + 1 → s.block.seg.toNat = 755 →
      exec i s = .next { s with block := { s.block with busy := false, seg := 0#10, rem := 0#16 } })

/-- R81, R131, R147: each symbol's instruction runs one microsecond of it while it is on the line. That a
symbol's instruction is one tick of it is the model's choice (log 2). -/
def Obligations.SymbolsRunWhileOnTheLine : Prop :=
  ∀ s : State, s.block.busy = true →
    RunsOnLine .symWake .wake [⟨true, 10000⟩, ⟨false, 38000⟩] s ∧
    RunsOnLine .symHw .hw [⟨true, 2500⟩, ⟨false, 2500⟩] s ∧
    RunsOnLine .symSw .sw [⟨true, 4800⟩, ⟨false, 640⟩] s ∧
    RunsOnLine .symBit1 .bit1 [⟨false, 640⟩, ⟨true, 640⟩] s ∧
    RunsOnLine .symBit0 .bit0 [⟨true, 640⟩, ⟨false, 640⟩] s ∧
    RunsOnLine .symGap .gap [⟨false, 34000⟩] s

/-- What the wire frame `F`, as instruction `i`, does: in no time, and leaving the block as it is, the host takes
five commands before whatever else it has to do, SET_ADDRESS, SET_COUNTER, SET_CONTROL, SET_ROLLING with the fields
of `F`, and SERIALIZE; on an idle block the next five steps carry them out, and `FR` holds `F` and `PB` its
payload. -/
def Sys2Proof.Machine.StoresAndSerializes (i : Instr) (F : Frame) (s : State) : Prop :=
  ∃ t : State, exec i s = .next t ∧ t.block = s.block ∧
    t.host = { s.host with script := t.host.script } ∧
    t.host.script = .present (4#3 ++ F.address.setWidth 56) :: .present (1#3 ++ F.counter.setWidth 56) ::
      .present (2#3 ++ F.control.setWidth 56) :: .present (3#3 ++ F.rolling.setWidth 56) ::
      .present (5#3 ++ 0#56) :: s.host.script ∧
    (s.block.busy = false → s.host.call = none → s.NoResetFor 5 → Host.Core.run core 5 t = .next
      ⟨{ s.block with fr := F, pb := serialize F }, { s.host with resets := laterResets 5 s.host.resets }⟩)

/-- R77, R79, R85, R115, R22: the sixteen wire-frame rows, whatever checksum nibble they carry, differ in the
control value only. That a row is a host operation which has its frame stored and serialized is the model's choice
(log 1), and so are the order of its SET commands (log 18) and that taking it up is a step (log 3). -/
def Obligations.WireFramesAreStoredAndSerialized : Prop :=
  ∀ (c k : Nibble) (r : BitVec 16) (a : BitVec 24) (s : State),
    StoresAndSerializes (.ctrlMy c k r a) ⟨c, 1#4, r, a⟩ s ∧
    StoresAndSerializes (.ctrlUp c k r a) ⟨c, 2#4, r, a⟩ s ∧
    StoresAndSerializes (.ctrlMyUp c k r a) ⟨c, 3#4, r, a⟩ s ∧
    StoresAndSerializes (.ctrlDown c k r a) ⟨c, 4#4, r, a⟩ s ∧
    StoresAndSerializes (.ctrlMyDown c k r a) ⟨c, 5#4, r, a⟩ s ∧
    StoresAndSerializes (.ctrlUpDown c k r a) ⟨c, 6#4, r, a⟩ s ∧
    StoresAndSerializes (.ctrlProgram c k r a) ⟨c, 8#4, r, a⟩ s ∧
    StoresAndSerializes (.ctrlSunFlag c k r a) ⟨c, 9#4, r, a⟩ s ∧
    StoresAndSerializes (.ctrlFlag c k r a) ⟨c, 10#4, r, a⟩ s ∧
    StoresAndSerializes (.ctrlReserved0 c k r a) ⟨c, 0#4, r, a⟩ s ∧
    StoresAndSerializes (.ctrlReserved7 c k r a) ⟨c, 7#4, r, a⟩ s ∧
    StoresAndSerializes (.ctrlReserved11 c k r a) ⟨c, 11#4, r, a⟩ s ∧
    StoresAndSerializes (.ctrlReserved12 c k r a) ⟨c, 12#4, r, a⟩ s ∧
    StoresAndSerializes (.ctrlReserved13 c k r a) ⟨c, 13#4, r, a⟩ s ∧
    StoresAndSerializes (.ctrlReserved14 c k r a) ⟨c, 14#4, r, a⟩ s ∧
    StoresAndSerializes (.ctrlReserved15 c k r a) ⟨c, 15#4, r, a⟩ s

/-- R85, R105, R116, with logs 1 and 3: on an idle block a wire frame's instruction and the five steps after it do
what the four SET instructions of its fields, in any order, and then SERIALIZE do one after another. -/
def Obligations.WireFrameIsSetFrameThenSerialize : Prop :=
  ∀ (F : Frame) (k : Nibble) (s : State) (l : List Instr), s.block.busy = false → s.host.call = none →
    s.NoResetFor 5 →
    l.Perm [.setAddress (F.address.setWidth 32), .setCounter (F.counter.setWidth 32),
      .setControl (F.control.setWidth 32), .setRolling (F.rolling.setWidth 32)] →
    ∃ t u v : State, exec (ctrlInstr F k) s = .next t ∧ Host.Core.run core 5 t = .next u ∧
      s.execAll (l ++ [.serialize]) = .next v ∧ u.block = v.block ∧
      u.host = { s.host with resets := laterResets 5 s.host.resets }

/-! ## Encoding -/

/-- R70 to R74, R77, R79, R81: decoding an encoded instruction gives it back, for every instruction. -/
def Obligations.DecodeEncodeIsTheIdentity : Prop :=
  ∀ i : Instr, decode (encode i) = .ok i

/-- The other direction: a plain buffer's word is the only word of its instruction, and a command's word agrees
with the encoder's on the opcode and on every operand bit that is not ignored (R72). -/
def Obligations.EncodeDecodeKeepsEveryOperandBit : Prop :=
  (∀ (w : BitVec 56) (i : Instr), decode (.plain w) = .ok i → encode i = .plain w) ∧
  ∀ w : BitVec 59, ∃ u : BitVec 59, encode (decodeCommand w) = .command u ∧ cmdOp u = cmdOp w ∧
    (cmdOp w = 6#3 → u = w) ∧
    (cmdOp w = 1#3 ∨ cmdOp w = 2#3 ∨ cmdOp w = 3#3 ∨ cmdOp w = 4#3 →
      u.extractLsb' 0 32 = w.extractLsb' 0 32)

/-- R72: the three operand formats, and that the bits a format calls ignored have no effect on what is decoded. -/
def Obligations.OperandFormatsAreThoseOfR72 : Prop :=
  (∀ a : BitVec 56,
    decode (.command (0#3 ++ a)) = .ok .nop ∧ decode (.command (5#3 ++ a)) = .ok .serialize ∧
    decode (.command (7#3 ++ a)) = .ok .transmit ∧
    decode (.command (1#3 ++ a)) = .ok (.setCounter (a.extractLsb' 0 32)) ∧
    decode (.command (2#3 ++ a)) = .ok (.setControl (a.extractLsb' 0 32)) ∧
    decode (.command (3#3 ++ a)) = .ok (.setRolling (a.extractLsb' 0 32)) ∧
    decode (.command (4#3 ++ a)) = .ok (.setAddress (a.extractLsb' 0 32)) ∧
    decode (.command (6#3 ++ a)) = .ok (.deserialize a) ∧
    (Buf.ofVec a).b0 = a.extractLsb' 48 8 ∧ (Buf.ofVec a).b6 = a.extractLsb' 0 8) ∧
  ∀ a b : BitVec 56, a.extractLsb' 0 32 = b.extractLsb' 0 32 →
    ∀ op : BitVec 3, op ≠ 6#3 → decode (.command (op ++ a)) = decode (.command (op ++ b))

/-- R73, R75, R77: the plain buffer of any frame decodes to the well-formed row of its control code, with the
frame's fields. R71, R80: no command word is rejected, and a 56-bit word exactly when its first nibble is not 0xA
(log 8). -/
def Obligations.PlainBuffersDecodeToWellFormedRows : Prop :=
  (∀ w : BitVec 59, ∃ i, decode (.command w) = .ok i) ∧
  (∀ w : BitVec 56, (∃ i, decode (.plain w) = .ok i) ↔ w.extractLsb' 52 4 = 0xA#4) ∧
  ∀ F : Frame, ∃ i : Instr, decode (.plain (plainBuffer F).vec) = .ok i ∧ i.wellFormed = true ∧
    i.wireFields = some (F, frameChecksum F)

/-- R77, R78: the values of the nine control codes, and the unions among them. -/
def Obligations.ControlCodesAreTheBitPatternsOfR77 : Prop :=
  ControlCode.my.value = 0b0001#4 ∧ ControlCode.up.value = 0b0010#4 ∧ ControlCode.down.value = 0b0100#4 ∧
  ControlCode.program.value = 0b1000#4 ∧ ControlCode.sunFlag.value = 0b1001#4 ∧
  ControlCode.flag.value = 0b1010#4 ∧
  ControlCode.myUp.value = 3#4 ∧ ControlCode.myDown.value = 5#4 ∧ ControlCode.upDown.value = 6#4 ∧
  ControlCode.myUp.value = ControlCode.my.value ||| ControlCode.up.value ∧
  ControlCode.myDown.value = ControlCode.my.value ||| ControlCode.down.value ∧
  ControlCode.upDown.value = ControlCode.up.value ||| ControlCode.down.value

/-- V3, V4, V8, V12, V13, R77: a few words written out, one of each format and layer. -/
def Obligations.WrittenOutWordsDecode : Prop :=
  decode (.command 0x0FFFFFFFFFFFFFF#59) = .ok .nop ∧
  decode (.command 0x1000000000000FF#59) = .ok (.setCounter 255#32) ∧
  decode (.command 0x400000012C0FFEE#59) = .ok (.setAddress 0x12C0FFEE#32) ∧
  decode (.command 0x6A72E2E1DF30CCC#59) = .ok (.deserialize 0xA72E2E1DF30CCC#56) ∧
  decode (.command 0x700000000000000#59) = .ok .transmit ∧
  decode (.plain 0xA7890033EEFFC0#56) = .ok (.ctrlProgram 7#4 9#4 0x0033#16 0xC0FFEE#24)

/-! ## Steps, the busy rule and the host -/

/-- A step runs the decoded instruction: a command presented or offered to an idle block, or held there by a
SendControlCode, or a wire frame the host takes up, is decoded and executed, the host's action being done. R185,
R206: unless `rst = 1`, which wins: the block is reset, a command held stays held, and one offered in that cycle is
lost. That the host's actions stand in a list of which each step takes one is the model's choice (log 3), and so
are wire frames as host operations (log 1) and what the host does at a reset (log 17). -/
def Obligations.StepRunsTheDecodedInstruction : Prop :=
  ∀ (s : State) (rest : List HostAction) (i : Instr),
    (s.rst = false → s.block.busy = false → s.host.call = none → ∀ w, decode (.command w) = .ok i →
      (s.host.script = .present w :: rest → step s = exec i (s.elapse.withScript rest)) ∧
      (s.host.script = .offer w :: rest → step s = exec i (s.elapse.withScript rest))) ∧
    (s.rst = false → s.block.busy = false → ∀ p w, s.host.call = some p → p.word = some w →
      decode (.command w) = .ok i → step s = exec i (s.elapse.withCall (some p.next))) ∧
    (s.rst = false → s.host.call = none → ∀ w, s.host.script = .frame w :: rest → decode (.plain w) = .ok i →
      step s = exec i (s.elapse.withScript rest)) ∧
    (s.rst = true → ∃ t : State, step s = .next t ∧ t.block = Block.reset ∧ t.host.store = s.host.store ∧
      (s.host.call = none → ∀ w,
        (s.host.script = .present w :: rest → t.portWord = some w ∧ t.host.script = s.host.script) ∧
        (s.host.script = .offer w :: rest → t.portWord = none ∧ t.host.script = .pass 1 :: rest)))

/-- While a transmission runs and `rst = 0`, a step in which time passes executes the symbol at `SEG`: with the host
idle, waiting, holding or offering a command, letting one of its ticks pass, or inside a SendControlCode, also at its
StoreWrite if it lets ticks pass before it. The host's own actions, which take no time, leave the block as it is; a SEND's StoreWrite is one of
them, though no run finds the block busy there. That a symbol's row is one tick of it is the model's choice (log 2),
and so are the host's list of actions and their steps of no time (log 3), wire frames as host operations (log 1),
that a busy step with a word on the port is the tick step and present keeps the word where offer withdraws it
(log 6), and that a withdrawn word leaves the port empty for a tick (log 17). -/
def Obligations.StepRunsTheSymbolOnTheLine : Prop :=
  ∀ (s : State) (x : Symbol) (k : Nat), s.block.busy = true → s.rst = false →
    symbolAt s.block.pb s.block.seg.toNat = some (x, k) →
    (s.host.call = none →
      (s.host.script = [] → step s = exec x.instr s.elapse) ∧
      (∀ rest, s.host.script = .wait :: rest → step s = exec x.instr s.elapse) ∧
      (∀ w rest, s.host.script = .present w :: rest → step s = exec x.instr s.elapse) ∧
      (∀ w rest, s.host.script = .offer w :: rest →
        step s = exec x.instr (s.elapse.withScript (.pass 1 :: rest))) ∧
      (∀ n rest, s.host.script = .pass (n + 1) :: rest →
        step s = exec x.instr (s.elapse.withScript (.pass n :: rest))) ∧
      ∀ a rest, s.host.script = a :: rest →
        (a = .pass 0 ∨ a = .startUp ∨ (∃ b c d r, a = .setFrame b c d r) ∨ (∃ code l, a = .send code l) ∨
          ∃ w, a = .frame w ∧ w.extractLsb' 52 4 = 0xA#4) →
        ∃ t : State, step s = .next t ∧ t.block = s.block) ∧
    ∀ p, s.host.call = some p →
      (p.pause ≠ 0 → step s = exec x.instr (s.elapse.withCall (some p.paused))) ∧
      (p.pause = 0 → p.stage ≠ .persist → step s = exec x.instr s.elapse) ∧
      (p.pause = 0 → p.stage = .persist → ∃ t : State, step s = .next t ∧ t.block = s.block)

/-- R206, R205 with log 6: while `BUSY = 1` none of the eight commands is accepted; the only step is the tick step,
which leaves `FR`, `PB`, `DF`, `DV` and `CE` as they are. With log 2: so a symbol that is not on the line waits.
With log 1: a wire frame leaves the block as it is, busy or not, and its commands wait like any others. -/
def Obligations.CommandsAndSymbolsWaitTheirTurn : Prop :=
  (∀ (x : Symbol) (s : State), (∀ k, s.block.onLine ≠ some (x, k)) → exec x.instr s = .next s.tick) ∧
  ∀ (s : State) (v : BitVec 32) (p : BitVec 56) (F : Frame) (k : Nibble), s.block.busy = true →
    (∀ i ∈ [Instr.nop, .setCounter v, .setControl v, .setRolling v, .setAddress v, .serialize, .deserialize p,
      .transmit], exec i s = .next s.tick) ∧
    s.tick.block.fr = s.block.fr ∧ s.tick.block.pb = s.block.pb ∧ s.tick.block.df = s.block.df ∧
    s.tick.block.dv = s.block.dv ∧ s.tick.block.ce = s.block.ce ∧
    ∃ t : State, exec (ctrlInstr F k) s = .next t ∧ t.block = s.block

/-- R205: a command held on the port waits and is accepted in the first cycle after `BUSY` falls; one presented and
withdrawn while `BUSY = 1` is lost without trace. R177: a word that is not accepted is never changed for another in
the next step, whatever that is. The model's choices: that steps are ticks here and what is left of the host's list
of actions (log 3), that a busy step with a word on the port is the tick step and present keeps the word where
offer withdraws it (log 6), and that a withdrawn word leaves the port empty for a tick (log 17). -/
def Obligations.HeldCommandsWaitAndWithdrawnOnesAreLost : Prop :=
  (∀ (s : State) (w : BitVec 59) (rest : List HostAction), s.block.busy = true → s.rst = false →
    s.host.call = none →
    s.block.cmdReady = false ∧
    (s.host.script = .present w :: rest → step s = .next s.elapse.tick ∧ s.elapse.tick.portWord = some w) ∧
    (s.host.script = .present w :: rest → s.block.Inv → s.NoResetFor (s.block.remaining + 1) →
      ∃ t : State, Host.Core.run core s.block.remaining s = .next t ∧ t.block.busy = false ∧
        t.portWord = some w ∧ step t = exec (decodeCommand w) (t.elapse.withScript rest)) ∧
    (s.host.script = .offer w :: rest → step s = .next (s.elapse.tick.withScript (.pass 1 :: rest)))) ∧
  ∀ (s t : State) (w : BitVec 59), s.portWord = some w → s.accepting = false → step s = .next t →
    t.portWord = some w ∨ t.portWord = none

/-- R62, R206, R177: no step but a reset changes the frame register, the payload or the decoded frame while a
transmission runs. -/
def Obligations.NothingChangesTheFrameInFlight : Prop :=
  ∀ s t : State, s.block.busy = true → s.rst = false → step s = .next t →
    t.block.fr = s.block.fr ∧ t.block.pb = s.block.pb ∧ t.block.df = s.block.df ∧ t.block.dv = s.block.dv ∧
    t.block.ce = s.block.ce

/-- R25, R24: of all instructions only DESERIALIZE writes `DF`, `DV` or `CE`, and it never leaves both flags
equal. -/
def Obligations.OnlyDeserializeWritesTheDecodeRegisters : Prop :=
  (∀ (i : Instr) (s t : State), exec i s = .next t →
    (t.block.df ≠ s.block.df ∨ t.block.dv ≠ s.block.dv ∨ t.block.ce ≠ s.block.ce) → ∃ p, i = .deserialize p) ∧
  ∀ (p : BitVec 56) (s t : State), s.block.busy = false → exec (.deserialize p) s = .next t →
    t.block.ce = !t.block.dv

/-- R22, R23, R26: each field of `FR` is written only by its own SET command, so no instruction writes two, `PB` only
by SERIALIZE and TRANSMIT, and only TRANSMIT raises `BUSY`. Of the host, no instruction writes the store, and none
but a wire frame, which leaves the block as it is, adds to its actions (log 1). -/
def Obligations.WhoWritesFrameAndPayload : Prop :=
  ∀ (i : Instr) (s t : State), exec i s = .next t →
    (t.block.fr.counter ≠ s.block.fr.counter → ∃ v, i = .setCounter v) ∧
    (t.block.fr.control ≠ s.block.fr.control → ∃ v, i = .setControl v) ∧
    (t.block.fr.rolling ≠ s.block.fr.rolling → ∃ v, i = .setRolling v) ∧
    (t.block.fr.address ≠ s.block.fr.address → ∃ v, i = .setAddress v) ∧
    (t.block.pb ≠ s.block.pb → i = .serialize ∨ i = .transmit) ∧
    (s.block.busy = false → t.block.busy = true → i = .transmit) ∧
    t.host.store = s.host.store ∧ t.host.call = s.host.call ∧ t.host.resets = s.host.resets ∧
    (t.host.script ≠ s.host.script → i.wireFields.isSome ∧ t.block = s.block)

/-- R214, R80, with log 8: every step goes on, but for one in which the host takes up a 56-bit word that is no plain
buffer. -/
def Obligations.EveryStepGoesOn : Prop :=
  ∀ s : State, (∃ t, step s = .next t) ↔
    ¬(s.rst = false ∧ s.host.call = none ∧
      ∃ w rest, s.host.script = .frame w :: rest ∧ w.extractLsb' 52 4 ≠ 0xA#4)

/-- R27, R25, R62, R124: every step keeps the block's invariant. -/
def Obligations.EveryStepKeepsTheBlockInvariant : Prop :=
  ∀ s t : State, s.block.Inv → step s = .next t → t.block.Inv

/-- The invariant holds after reset (R32). -/
def Obligations.ResetStateMeetsTheBlockInvariant : Prop := State.reset.block.Inv

/-- R171, R174, R175: SEND from an idle block: the store is advanced by one modulo 2^16, `FR` carries the code and the
new rolling code, `PB` the frame that was sent, and the block is idle. Until its last step the store is as it was,
and `BUSY` is 1 from TRANSMIT's acceptance through the 874720 ticks and 0 after them: the store is written after
`BUSY` has fallen. The model's choices: StoreRead, the end of WAIT and StoreWrite are steps of no time (log 3), so the
steps are 1, 2 SETs (log 13), 1 for TRANSMIT, 874720 ticks, 1 and 1; and before each stage the ticks the host lets
pass (R177), those at WAIT being among the transmission's. -/
def Obligations.SendTransmitsTheNextRollingCode : Prop :=
  ∀ (s : State) (code : ControlCode) (pauses : List Nat) (rest : List HostAction) (a n : Nat),
    s.block.busy = false → s.block.seg = 0#10 → s.block.rem = 0#16 → s.host.call = none →
    s.host.script = .send code pauses :: rest →
    a = pauses.getD 0 0 + pauses.getD 1 0 + pauses.getD 2 0 + 4 →
    n = a + max (pauses.getD 3 0) 874720 + 1 + pauses.getD 4 0 + 1 → s.NoResetFor n →
    Host.Core.run core n s = .next
      ⟨{ s.block with
          fr := { s.block.fr with control := code.value, rolling := s.host.store + 1#16 }
          pb := serialize { s.block.fr with control := code.value, rolling := s.host.store + 1#16 } },
        ⟨s.host.store + 1#16, none, rest, laterResets n s.host.resets⟩⟩ ∧
    ∀ m, m < n → ∃ t : State, Host.Core.run core m s = .next t ∧ t.host.store = s.host.store ∧
      (t.block.busy = true ↔ a ≤ m ∧ m < a + 874720)

/-- R176: start-up writes the sender address and the counter, and nothing else. R85: SET_FRAME is its four SET
commands, and WAIT lets ticks pass until `busy = 0`. The model's choices: expanding an operation and ending a WAIT
are steps of no time (log 3), which the 3 and 5 steps count, and the SET commands have a fixed order (log 18). -/
def Obligations.HostOperationsAreTheirExpansions : Prop :=
  (∀ (s : State) (rest : List HostAction), s.block.busy = false → s.host.call = none → s.NoResetFor 3 →
    s.host.script = .startUp :: rest →
    Host.Core.run core 3 s = .next
      ⟨{ s.block with fr := { s.block.fr with
          address := Config.senderAddress, counter := Config.counterInit } },
        { s.host with script := rest, resets := laterResets 3 s.host.resets }⟩) ∧
  (∀ (s : State) (a c k r : BitVec 32) (rest : List HostAction), s.block.busy = false → s.host.call = none →
    s.NoResetFor 5 → s.host.script = .setFrame a c k r :: rest →
    Host.Core.run core 5 s = .next
      ⟨{ s.block with
          fr := ⟨BitVec.ofNat 4 c.toNat, BitVec.ofNat 4 k.toNat, BitVec.ofNat 16 r.toNat, BitVec.ofNat 24 a.toNat⟩ },
        { s.host with script := rest, resets := laterResets 5 s.host.resets }⟩) ∧
  ∀ (s : State) (rest : List HostAction), s.rst = false → s.host.call = none → s.host.script = .wait :: rest →
    (s.block.busy = true → step s = .next s.elapse.tick) ∧
    (s.block.busy = false → step s = .next (s.elapse.withScript rest))
end

