-- ==== Sys2Proof/Laws/Bits.lean ====
section
/-! SUPPORT. Bit-level readings of the words and buffers: which bit stands where (R9, R55, R70, R73). -/

namespace Sys2Proof

theorem commandWord_bit (op : BitVec 3) (arg : BitVec 56) (i : Nat) :
    (commandWord op arg).getLsbD i = if i < 56 then arg.getLsbD i else op.getLsbD (i - 56) :=
  BitVec.getLsbD_append

@[simp] theorem cmdOp_commandWord (op : BitVec 3) (arg : BitVec 56) : cmdOp (commandWord op arg) = op := by
  apply BitVec.eq_of_getLsbD_eq
  intro i hi
  simp [cmdOp, commandWord_bit, hi]

@[simp] theorem cmdArg_commandWord (op : BitVec 3) (arg : BitVec 56) : cmdArg (commandWord op arg) = arg := by
  apply BitVec.eq_of_getLsbD_eq
  intro i hi
  simp [cmdArg, commandWord_bit, hi]

@[simp] theorem operandS_argS (v : BitVec 32) : operandS (argS v) = v := by
  apply BitVec.eq_of_getLsbD_eq
  intro i hi
  simp [operandS, argS, hi]; omega

/-- Bit `j` of the vector is bit `j mod 8` of byte `6 - j div 8` (R9). -/
theorem vec_bit (P : Buf) (j : Nat) : P.vec.getLsbD j =
    if j < 8 then P.b6.getLsbD j
    else if j < 16 then P.b5.getLsbD (j - 8)
    else if j < 24 then P.b4.getLsbD (j - 16)
    else if j < 32 then P.b3.getLsbD (j - 24)
    else if j < 40 then P.b2.getLsbD (j - 32)
    else if j < 48 then P.b1.getLsbD (j - 40)
    else P.b0.getLsbD (j - 48) := by
  have e : P.vec.getLsbD j = _ := BitVec.getLsbD_append (x := P.b0 ++ P.b1 ++ P.b2 ++ P.b3 ++ P.b4 ++ P.b5) (y := P.b6)
  rw [e, BitVec.getLsbD_append, BitVec.getLsbD_append, BitVec.getLsbD_append, BitVec.getLsbD_append,
    BitVec.getLsbD_append]
  simp only [Nat.sub_sub]
  split_ifs <;> first | rfl | omega

theorem hiNibble_bit (b : Byte) {i : Nat} (h : i < 4) : (hiNibble b).getLsbD i = b.getLsbD (4 + i) := by
  simp [hiNibble, h]

theorem loNibble_bit (b : Byte) {i : Nat} (h : i < 4) : (loNibble b).getLsbD i = b.getLsbD i := by
  simp [loNibble, h]

/-- A byte is its two nibbles (R55). -/
theorem byte_ext {x y : Byte} (hi : hiNibble x = hiNibble y) (lo : loNibble x = loNibble y) : x = y := by
  apply BitVec.eq_of_getLsbD_eq
  intro i hi8
  by_cases h : i < 4
  · rw [← loNibble_bit x h, ← loNibble_bit y h, lo]
  · have := congrArg (fun n : Nibble => n.getLsbD (i - 4)) hi
    simp only [hiNibble_bit _ (show i - 4 < 4 by omega)] at this
    simpa [show 4 + (i - 4) = i by omega] using this

/-- The vector's nibbles are the buffer's (R9, R55). -/
theorem vec_nibble0 (P : Buf) : P.vec.extractLsb' 52 4 = hiNibble P.b0 := by
  apply BitVec.eq_of_getLsbD_eq
  intro i hi
  rw [hiNibble_bit _ hi]
  simp only [BitVec.getLsbD_extractLsb', vec_bit, hi, decide_true, Bool.true_and]
  split_ifs <;> first | omega | (congr 1; omega)

theorem vec_nibble2 (P : Buf) : P.vec.extractLsb' 44 4 = hiNibble P.b1 := by
  apply BitVec.eq_of_getLsbD_eq
  intro i hi
  rw [hiNibble_bit _ hi]
  simp only [BitVec.getLsbD_extractLsb', vec_bit, hi, decide_true, Bool.true_and]
  split_ifs <;> first | omega | (congr 1; omega)

/-! The nibbles of a frame's layout (R73). -/

theorem layout_b0_hi (F : Frame) (k : Nibble) : hiNibble (layout F k).b0 = 0xA#4 := by
  have : ∀ c : Nibble, hiNibble (0xA0#8 ||| c.setWidth 8) = 0xA#4 := by decide
  exact this F.counter

theorem layout_b0_lo (F : Frame) (k : Nibble) : loNibble (layout F k).b0 = F.counter := by
  have : ∀ c : Nibble, loNibble (0xA0#8 ||| c.setWidth 8) = c := by decide
  exact this F.counter

theorem layout_b1_hi (F : Frame) (k : Nibble) : hiNibble (layout F k).b1 = F.control := by
  have : ∀ c k : Nibble, hiNibble ((c.setWidth 8 <<< 4) ||| k.setWidth 8) = c := by decide
  exact this F.control k

theorem layout_b1_lo (F : Frame) (k : Nibble) : loNibble (layout F k).b1 = k := by
  have : ∀ c k : Nibble, loNibble ((c.setWidth 8 <<< 4) ||| k.setWidth 8) = k := by decide
  exact this F.control k

end Sys2Proof
end

