-- ==== Sys2Proof/Laws/Pulse.lean ====
section
/-! SUPPORT. The segment table and the symbols: what stands in a row, and what follows it. -/

namespace Sys2Proof

@[simp] theorem payloadSegment_duration (P : Buf) (q : Nat) : (payloadSegment P q).duration = 640 := rfl

/-- The durations of a frame's rows, without its payload. -/
theorem frameSegment_duration (P : Buf) (h j : Nat) : (frameSegment P h j).duration =
    if j < h then 2500 else if j = h then 4800 else if j < h + 114 then 640 else 34000 := by
  unfold frameSegment
  split_ifs <;> first | rfl | omega

theorem bitSymbol_segments (b : Bool) :
    (bitSymbol b).segments = [⟨manch b false, 640⟩, ⟨manch b true, 640⟩] := by cases b <;> rfl

/-- A row of a frame is the segment its symbol has at its place (R82, R142). -/
theorem frameSymbolAt_segment (P : Buf) {h j : Nat} (hj : j < h + 115) :
    (frameSymbolAt P h j).1.segments[(frameSymbolAt P h j).2]? = some (frameSegment P h j) := by
  unfold frameSymbolAt frameSegment
  by_cases h1 : j < h
  · simp only [if_pos h1]
    obtain p | p := Nat.mod_two_eq_zero_or_one j <;> simp [p, Symbol.segments]
  · simp only [if_neg h1]
    by_cases h2 : j < h + 2
    · obtain rfl | rfl : j = h ∨ j = h + 1 := by omega
      · simp [Symbol.segments]
      · simp [Symbol.segments]
    · simp only [if_neg h2, if_neg (show ¬j = h by omega), if_neg (show ¬j = h + 1 by omega)]
      by_cases h3 : j < h + 114
      · simp only [if_pos h3, bitSymbol_segments]
        obtain p | p := Nat.mod_two_eq_zero_or_one (j - (h + 2)) <;> simp [p, payloadSegment, tHalf]
      · simp [if_neg h3, Symbol.segments]

/-- The next row of a frame stays in the same symbol while the symbol has a next segment. -/
theorem frameSymbolAt_next {P : Buf} {h j : Nat} {g : Segment} (even : h % 2 = 0)
    (hg : (frameSymbolAt P h j).1.segments[(frameSymbolAt P h j).2 + 1]? = some g) :
    frameSymbolAt P h (j + 1) = ((frameSymbolAt P h j).1, (frameSymbolAt P h j).2 + 1) ∧ j < h + 114 := by
  unfold frameSymbolAt at hg ⊢
  by_cases h1 : j < h
  · simp only [if_pos h1] at hg ⊢
    obtain p | p := Nat.mod_two_eq_zero_or_one j
    · rw [if_pos (by omega)]; refine ⟨?_, by omega⟩; congr 1; omega
    · simp [p, Symbol.segments] at hg
  · simp only [if_neg h1] at hg ⊢
    by_cases h2 : j < h + 2
    · simp only [if_pos h2] at hg ⊢
      obtain rfl | rfl : j = h ∨ j = h + 1 := by omega
      · rw [if_neg (by omega), if_pos (by omega)]; refine ⟨?_, by omega⟩; congr 1; omega
      · simp [Symbol.segments] at hg
    · simp only [if_neg h2] at hg ⊢
      by_cases h3 : j < h + 114
      · simp only [if_pos h3] at hg ⊢
        obtain p | p := Nat.mod_two_eq_zero_or_one (j - (h + 2))
        · rw [if_neg (by omega), if_neg (by omega), if_pos (by omega),
            show (j + 1 - (h + 2)) / 2 = (j - (h + 2)) / 2 by omega,
            show (j + 1 - (h + 2)) % 2 = (j - (h + 2)) % 2 + 1 by omega]
          exact ⟨rfl, h3⟩
        · simp [p, bitSymbol_segments] at hg
      · simp [if_neg h3, Symbol.segments] at hg

/-- The row at `s` is the segment of its symbol that `symbolAt` names (R82, R142). -/
theorem symbolAt_segment {P : Buf} {s : Nat} {x : Symbol} {k : Nat} (h : symbolAt P s = some (x, k)) :
    x.segments[k]? = some (segAt P s) := by
  unfold symbolAt at h
  split_ifs at h with h1 h2 h3 <;> simp only [Option.some.injEq] at h
  · obtain rfl | rfl : s = 0 ∨ s = 1 := by omega
    all_goals obtain ⟨rfl, rfl⟩ := Prod.mk.inj h; rfl
  · have := frameSymbolAt_segment P (h := 4) (j := s - 2) (by omega)
    rw [h] at this
    simpa [segAt, if_neg (show ¬s = 0 by omega), if_neg (show ¬s = 1 by omega), if_pos h2] using this
  · have := frameSymbolAt_segment P (h := 12) (j := (s - 121) % 127) (by omega)
    rw [h] at this
    simpa [segAt, if_neg (show ¬s = 0 by omega), if_neg (show ¬s = 1 by omega), if_neg h2, if_pos h3] using this

/-- The next row stays in the same symbol while the symbol has a next segment, and the table goes on. -/
theorem symbolAt_next {P : Buf} {s : Nat} {x : Symbol} {k : Nat} {g : Segment}
    (h : symbolAt P s = some (x, k)) (hg : x.segments[k + 1]? = some g) :
    symbolAt P (s + 1) = some (x, k + 1) ∧ s < 755 := by
  unfold symbolAt at h ⊢
  split_ifs at h with h1 h2 h3 <;> simp only [Option.some.injEq] at h
  · obtain rfl | rfl : s = 0 ∨ s = 1 := by omega
    all_goals obtain ⟨rfl, rfl⟩ := Prod.mk.inj h
    · exact ⟨rfl, by omega⟩
    · simp [Symbol.segments] at hg
  · have key := frameSymbolAt_next (P := P) (h := 4) (j := s - 2) (g := g) rfl (by rw [h]; exact hg)
    rw [h] at key
    rw [if_neg (by omega), if_pos (by omega), show s + 1 - 2 = s - 2 + 1 by omega, key.1]
    exact ⟨rfl, by omega⟩
  · have key := frameSymbolAt_next (P := P) (h := 12) (j := (s - 121) % 127) (g := g) rfl (by rw [h]; exact hg)
    rw [h] at key
    rw [if_neg (by omega), if_neg (by omega), if_pos (by omega),
      show (s + 1 - 121) % 127 = (s - 121) % 127 + 1 by omega, key.1]
    exact ⟨rfl, by omega⟩

/-- Past the table there is no symbol. -/
theorem symbolAt_lt {P : Buf} {s : Nat} {x : Symbol} {k : Nat} (h : symbolAt P s = some (x, k)) : s < 756 := by
  unfold symbolAt at h
  split_ifs at h <;> omega

/-- Every row of the table belongs to a symbol (R82). -/
theorem symbolAt_isSome (P : Buf) {s : Nat} (h : s < 756) : (symbolAt P s).isSome := by
  unfold symbolAt
  split_ifs <;> simp

/-- Every duration of the table fits `REM`, and none is shorter than a half-bit (R8, R130). -/
theorem segAt_duration_bounds (P : Buf) {s : Nat} (h : s < 756) :
    640 ≤ (segAt P s).duration ∧ (segAt P s).duration ≤ 38000 := by
  unfold segAt
  split_ifs
  · decide
  · decide
  all_goals rw [frameSegment_duration]; split_ifs <;> omega

end Sys2Proof
end

