-- ==== Sys2Proof/Laws/State.lean ====
section
/-! SUPPORT. What each named update leaves in each field: one lemma per field, true by unfolding. -/

namespace Sys2Proof.Machine

variable (s : State) (b c : Block) (rest : List HostAction) (v : BitVec 32) (ok : Bool) (call : Option SendCall)
  (g : BitVec 10) (d : Nat)

@[simp] theorem withScript_block : (s.withScript rest).block = s.block := rfl
@[simp] theorem withScript_script : (s.withScript rest).host.script = rest := rfl
@[simp] theorem withScript_store : (s.withScript rest).host.store = s.host.store := rfl
@[simp] theorem withScript_call : (s.withScript rest).host.call = s.host.call := rfl
@[simp] theorem withScript_resets : (s.withScript rest).host.resets = s.host.resets := rfl
@[simp] theorem withCall_block : (s.withCall call).block = s.block := rfl
@[simp] theorem withCall_script : (s.withCall call).host.script = s.host.script := rfl
@[simp] theorem withCall_store : (s.withCall call).host.store = s.host.store := rfl
@[simp] theorem withCall_call : (s.withCall call).host.call = call := rfl
@[simp] theorem withCall_resets : (s.withCall call).host.resets = s.host.resets := rfl
@[simp] theorem elapse_block : s.elapse.block = s.block := rfl
@[simp] theorem elapse_script : s.elapse.host.script = s.host.script := rfl
@[simp] theorem elapse_store : s.elapse.host.store = s.host.store := rfl
@[simp] theorem elapse_call : s.elapse.host.call = s.host.call := rfl
@[simp] theorem elapse_resets : s.elapse.host.resets = laterResets 1 s.host.resets := rfl
@[simp] theorem resetStep_block : s.resetStep.block = Block.reset := rfl
@[simp] theorem resetStep_store : s.resetStep.host.store = s.host.store := rfl
@[simp] theorem resetStep_call : s.resetStep.host.call = s.host.call.filter (·.sent s.block) := rfl
@[simp] theorem resetStep_resets : s.resetStep.host.resets = s.host.resets.tail := rfl
@[simp] theorem withBlock_block : (s.withBlock b).block = b := rfl
@[simp] theorem withBlock_host : (s.withBlock b).host = s.host := rfl
@[simp] theorem withBlock_withBlock : (s.withBlock b).withBlock c = s.withBlock c := rfl
@[simp] theorem withBlock_self : s.withBlock s.block = s := rfl
@[simp] theorem tick_block : s.tick.block = s.block.tick := rfl
@[simp] theorem tick_host : s.tick.host = s.host := rfl

@[simp] theorem next_code (p : SendCall) : p.next.code = p.code := rfl
@[simp] theorem next_r (p : SendCall) : p.next.r = p.r := rfl
@[simp] theorem next_stage (p : SendCall) : p.next.stage = p.stage.next := rfl
@[simp] theorem next_pauses (p : SendCall) : p.next.pauses = p.pauses.tail := rfl
@[simp] theorem paused_code (p : SendCall) : p.paused.code = p.code := rfl
@[simp] theorem paused_r (p : SendCall) : p.paused.r = p.r := rfl
@[simp] theorem paused_stage (p : SendCall) : p.paused.stage = p.stage := rfl
@[simp] theorem paused_pause (p : SendCall) : p.paused.pause = p.pause - 1 := rfl
@[simp] theorem paused_command (p : SendCall) : p.paused.command = p.command := rfl

@[simp] theorem setCounter_fr : (b.setCounter v).fr = { b.fr with counter := trunc4 v } := rfl
@[simp] theorem setCounter_pb : (b.setCounter v).pb = b.pb := rfl
@[simp] theorem setCounter_df : (b.setCounter v).df = b.df := rfl
@[simp] theorem setCounter_dv : (b.setCounter v).dv = b.dv := rfl
@[simp] theorem setCounter_ce : (b.setCounter v).ce = b.ce := rfl
@[simp] theorem setCounter_busy : (b.setCounter v).busy = b.busy := rfl
@[simp] theorem setCounter_seg : (b.setCounter v).seg = b.seg := rfl
@[simp] theorem setCounter_rem : (b.setCounter v).rem = b.rem := rfl

@[simp] theorem setControl_fr : (b.setControl v).fr = { b.fr with control := trunc4 v } := rfl
@[simp] theorem setControl_pb : (b.setControl v).pb = b.pb := rfl
@[simp] theorem setControl_df : (b.setControl v).df = b.df := rfl
@[simp] theorem setControl_dv : (b.setControl v).dv = b.dv := rfl
@[simp] theorem setControl_ce : (b.setControl v).ce = b.ce := rfl
@[simp] theorem setControl_busy : (b.setControl v).busy = b.busy := rfl
@[simp] theorem setControl_seg : (b.setControl v).seg = b.seg := rfl
@[simp] theorem setControl_rem : (b.setControl v).rem = b.rem := rfl

@[simp] theorem setRolling_fr : (b.setRolling v).fr = { b.fr with rolling := trunc16 v } := rfl
@[simp] theorem setRolling_pb : (b.setRolling v).pb = b.pb := rfl
@[simp] theorem setRolling_df : (b.setRolling v).df = b.df := rfl
@[simp] theorem setRolling_dv : (b.setRolling v).dv = b.dv := rfl
@[simp] theorem setRolling_ce : (b.setRolling v).ce = b.ce := rfl
@[simp] theorem setRolling_busy : (b.setRolling v).busy = b.busy := rfl
@[simp] theorem setRolling_seg : (b.setRolling v).seg = b.seg := rfl
@[simp] theorem setRolling_rem : (b.setRolling v).rem = b.rem := rfl

@[simp] theorem setAddress_fr : (b.setAddress v).fr = { b.fr with address := trunc24 v } := rfl
@[simp] theorem setAddress_pb : (b.setAddress v).pb = b.pb := rfl
@[simp] theorem setAddress_df : (b.setAddress v).df = b.df := rfl
@[simp] theorem setAddress_dv : (b.setAddress v).dv = b.dv := rfl
@[simp] theorem setAddress_ce : (b.setAddress v).ce = b.ce := rfl
@[simp] theorem setAddress_busy : (b.setAddress v).busy = b.busy := rfl
@[simp] theorem setAddress_seg : (b.setAddress v).seg = b.seg := rfl
@[simp] theorem setAddress_rem : (b.setAddress v).rem = b.rem := rfl

@[simp] theorem serializeFrame_fr : b.serializeFrame.fr = b.fr := rfl
@[simp] theorem serializeFrame_pb : b.serializeFrame.pb = serialize b.fr := rfl
@[simp] theorem serializeFrame_df : b.serializeFrame.df = b.df := rfl
@[simp] theorem serializeFrame_dv : b.serializeFrame.dv = b.dv := rfl
@[simp] theorem serializeFrame_ce : b.serializeFrame.ce = b.ce := rfl
@[simp] theorem serializeFrame_busy : b.serializeFrame.busy = b.busy := rfl
@[simp] theorem serializeFrame_seg : b.serializeFrame.seg = b.seg := rfl
@[simp] theorem serializeFrame_rem : b.serializeFrame.rem = b.rem := rfl

@[simp] theorem setDecodeFlags_fr : (b.setDecodeFlags ok).fr = b.fr := rfl
@[simp] theorem setDecodeFlags_pb : (b.setDecodeFlags ok).pb = b.pb := rfl
@[simp] theorem setDecodeFlags_df : (b.setDecodeFlags ok).df = b.df := rfl
@[simp] theorem setDecodeFlags_dv : (b.setDecodeFlags ok).dv = ok := rfl
@[simp] theorem setDecodeFlags_ce : (b.setDecodeFlags ok).ce = !ok := rfl
@[simp] theorem setDecodeFlags_busy : (b.setDecodeFlags ok).busy = b.busy := rfl
@[simp] theorem setDecodeFlags_seg : (b.setDecodeFlags ok).seg = b.seg := rfl
@[simp] theorem setDecodeFlags_rem : (b.setDecodeFlags ok).rem = b.rem := rfl

@[simp] theorem enterSegment_fr : (b.enterSegment g d).fr = b.fr := rfl
@[simp] theorem enterSegment_pb : (b.enterSegment g d).pb = b.pb := rfl
@[simp] theorem enterSegment_df : (b.enterSegment g d).df = b.df := rfl
@[simp] theorem enterSegment_dv : (b.enterSegment g d).dv = b.dv := rfl
@[simp] theorem enterSegment_ce : (b.enterSegment g d).ce = b.ce := rfl
@[simp] theorem enterSegment_busy : (b.enterSegment g d).busy = b.busy := rfl
@[simp] theorem enterSegment_seg : (b.enterSegment g d).seg = g := rfl
@[simp] theorem enterSegment_rem : (b.enterSegment g d).rem = BitVec.ofNat 16 d := rfl

@[simp] theorem startTransmission_fr : b.startTransmission.fr = b.fr := rfl
@[simp] theorem startTransmission_pb : b.startTransmission.pb = serialize b.fr := rfl
@[simp] theorem startTransmission_df : b.startTransmission.df = b.df := rfl
@[simp] theorem startTransmission_dv : b.startTransmission.dv = b.dv := rfl
@[simp] theorem startTransmission_ce : b.startTransmission.ce = b.ce := rfl
@[simp] theorem startTransmission_busy : b.startTransmission.busy = true := rfl
@[simp] theorem startTransmission_seg : b.startTransmission.seg = 0#10 := rfl
@[simp] theorem startTransmission_rem : b.startTransmission.rem = 10000#16 := rfl

@[simp] theorem stopTransmission_fr : b.stopTransmission.fr = b.fr := rfl
@[simp] theorem stopTransmission_pb : b.stopTransmission.pb = b.pb := rfl
@[simp] theorem stopTransmission_df : b.stopTransmission.df = b.df := rfl
@[simp] theorem stopTransmission_dv : b.stopTransmission.dv = b.dv := rfl
@[simp] theorem stopTransmission_ce : b.stopTransmission.ce = b.ce := rfl
@[simp] theorem stopTransmission_busy : b.stopTransmission.busy = false := rfl
@[simp] theorem stopTransmission_seg : b.stopTransmission.seg = 0#10 := rfl
@[simp] theorem stopTransmission_rem : b.stopTransmission.rem = 0#16 := rfl

end Sys2Proof.Machine
end

