-- ==== Sys2Proof/Laws/Ops.lean ====
section
/-! SUPPORT. One lemma for each shared operation: everything it can do. -/

namespace Sys2Proof.Machine

theorem command_idle {s : State} (f : Block → Block) (h : s.block.busy = false) :
    s.command f = .next (s.withBlock (f s.block)) := by simp [State.command, Block.cmdReady, h]

theorem command_busy {s : State} (f : Block → Block) (h : s.block.busy = true) :
    s.command f = .next s.tick := by simp [State.command, Block.cmdReady, h]

theorem onLine_idle {b : Block} (h : b.busy = false) : b.onLine = none := by simp [Block.onLine, h]

theorem onLine_busy {b : Block} (h : b.busy = true) : b.onLine = symbolAt b.pb b.seg.toNat := by
  simp [Block.onLine, h]

theorem tick_idle {b : Block} (h : b.busy = false) : b.tick = b := by simp [Block.tick, h]

/-- The three busy branches of the tick step (R147). -/
theorem tick_count {b : Block} (h : b.busy = true) (hr : 1 < b.rem.toNat) :
    b.tick = { b with rem := b.rem - 1#16 } := by simp [Block.tick, h, hr]

theorem tick_advance {b : Block} (h : b.busy = true) (hr : ¬1 < b.rem.toNat) (hs : b.seg.toNat < 755) :
    b.tick = b.enterSegment (b.seg + 1#10) (segAt b.pb (b.seg.toNat + 1)).duration := by
  rw [Block.tick, if_pos h, if_neg hr, if_pos hs]

theorem tick_stop {b : Block} (h : b.busy = true) (hr : ¬1 < b.rem.toNat) (hs : ¬b.seg.toNat < 755) :
    b.tick = b.stopTransmission := by
  rw [Block.tick, if_pos h, if_neg hr, if_neg hs]

/-- Everything a tick step can do: nothing, count down, enter the next segment, or stop (R147). -/
theorem tick_cases (b : Block) :
    (b.busy = false ∧ b.tick = b) ∨
    (b.busy = true ∧ 1 < b.rem.toNat ∧ b.tick = { b with rem := b.rem - 1#16 }) ∨
    (b.busy = true ∧ ¬1 < b.rem.toNat ∧ b.seg.toNat < 755 ∧
      b.tick = b.enterSegment (b.seg + 1#10) (segAt b.pb (b.seg.toNat + 1)).duration) ∨
    (b.busy = true ∧ ¬1 < b.rem.toNat ∧ ¬b.seg.toNat < 755 ∧ b.tick = b.stopTransmission) := by
  obtain h | h : b.busy = true ∨ b.busy = false := by cases b.busy <;> simp
  · by_cases hr : 1 < b.rem.toNat
    · exact .inr (.inl ⟨h, hr, tick_count h hr⟩)
    · by_cases hs : b.seg.toNat < 755
      · exact .inr (.inr (.inl ⟨h, hr, hs, tick_advance h hr hs⟩))
      · exact .inr (.inr (.inr ⟨h, hr, hs, tick_stop h hr hs⟩))
  · exact .inl ⟨h, tick_idle h⟩

/-- One microsecond of the symbol on the line is the tick step (R81, R147). -/
theorem symbolTick_eq_tick {b : Block} {x : Symbol} {k : Nat} (h : b.onLine = some (x, k)) :
    b.symbolTick x k = b.tick := by
  cases hb : b.busy with
  | false => simp [onLine_idle hb] at h
  | true =>
    rw [onLine_busy hb] at h
    unfold Block.symbolTick Block.tick
    rw [if_pos hb]
    by_cases hr : 1 < b.rem.toNat
    · rw [if_pos hr, if_pos hr]
    · rw [if_neg hr, if_neg hr]
      cases hg : x.segments[k + 1]? with
      | none => rfl
      | some g =>
        obtain ⟨hn, hlt⟩ := symbolAt_next h hg
        have := symbolAt_segment hn
        rw [hg, Option.some.injEq] at this
        rw [if_pos hlt, this]

/-- A symbol's instruction is the tick step, whether the symbol is on the line or waits for its place. -/
theorem symbol_eq_tick (s : State) (x : Symbol) : s.symbol x = .next s.tick := by
  unfold State.symbol
  split
  · next y k h =>
    split
    · next e => subst e; rw [symbolTick_eq_tick h]; rfl
    · rfl
  · rfl

theorem decodePayload_ok {b : Block} {P : Buf} {F : Frame} (h : deserialize P = .ok F) :
    b.decodePayload P = { b with df := F, dv := true, ce := false } := by
  simp only [Block.decodePayload, h]; rfl

theorem decodePayload_error {b : Block} {P : Buf} {e : BlockException} (h : deserialize P = .error e) :
    b.decodePayload P = { b with dv := false, ce := true } := by
  cases e; simp only [Block.decodePayload, h]; rfl

/-- What DESERIALIZE leaves alone on either outcome (R118). -/
theorem decodePayload_frame (b : Block) (P : Buf) :
    (b.decodePayload P).fr = b.fr ∧ (b.decodePayload P).pb = b.pb ∧ (b.decodePayload P).busy = b.busy ∧
    (b.decodePayload P).seg = b.seg ∧ (b.decodePayload P).rem = b.rem ∧
    (b.decodePayload P).ce = !(b.decodePayload P).dv := by
  cases h : deserialize P with
  | ok F => rw [decodePayload_ok h]; exact ⟨rfl, rfl, rfl, rfl, rfl, rfl⟩
  | error e => rw [decodePayload_error h]; exact ⟨rfl, rfl, rfl, rfl, rfl, rfl⟩

end Sys2Proof.Machine
end

