-- ==== Sys2Proof/Laws/PerInstr.lean ====
section
/-! SUPPORT. Statements about every instruction as syntax, one lemma per constructor. -/

namespace Sys2Proof.Laws.TableWord

/-- `match` of the instruction's row in spec/opcode_table.json; for a symbol its `encoding`, its levels with the
first one most significant. -/
def rowMatch : Instr → Nat
  | .nop => 0x000000000000000
  | .setCounter _ => 0x100000000000000
  | .setControl _ => 0x200000000000000
  | .setRolling _ => 0x300000000000000
  | .setAddress _ => 0x400000000000000
  | .serialize => 0x500000000000000
  | .deserialize _ => 0x600000000000000
  | .transmit => 0x700000000000000
  | .ctrlMy _ _ _ _ => 0xA0100000000000
  | .ctrlUp _ _ _ _ => 0xA0200000000000
  | .ctrlMyUp _ _ _ _ => 0xA0300000000000
  | .ctrlDown _ _ _ _ => 0xA0400000000000
  | .ctrlMyDown _ _ _ _ => 0xA0500000000000
  | .ctrlUpDown _ _ _ _ => 0xA0600000000000
  | .ctrlProgram _ _ _ _ => 0xA0800000000000
  | .ctrlSunFlag _ _ _ _ => 0xA0900000000000
  | .ctrlFlag _ _ _ _ => 0xA0A00000000000
  | .ctrlReserved0 _ _ _ _ => 0xA0000000000000
  | .ctrlReserved7 _ _ _ _ => 0xA0700000000000
  | .ctrlReserved11 _ _ _ _ => 0xA0B00000000000
  | .ctrlReserved12 _ _ _ _ => 0xA0C00000000000
  | .ctrlReserved13 _ _ _ _ => 0xA0D00000000000
  | .ctrlReserved14 _ _ _ _ => 0xA0E00000000000
  | .ctrlReserved15 _ _ _ _ => 0xA0F00000000000
  | .symWake => 0b10
  | .symHw => 0b10
  | .symSw => 0b10
  | .symBit1 => 0b01
  | .symBit0 => 0b10
  | .symGap => 0b0

/-- The bits of a code word under its layer's `mask` in spec/opcode_table.json: bits 58:56 of a command, bits 55:52
and 47:44 of a plain buffer, and every level of a symbol. -/
def maskedBits : CodeWord → Nat
  | .command w => (w.extractLsb' 56 3).toNat * 2 ^ 56
  | .plain w => (w.extractLsb' 52 4).toNat * 2 ^ 52 + (w.extractLsb' 44 4).toNat * 2 ^ 44
  | .pulses g => g.foldl (fun n x => 2 * n + x.level.toNat) 0

/-- The encoder's word has the row's fixed bits. -/
def Statement (i : Instr) : Prop := maskedBits (encode i) = rowMatch i

/-- A command word's fixed bits are its opcode (R70). -/
theorem maskedBits_command (op : BitVec 3) (arg : BitVec 56) :
    maskedBits (.command (commandWord op arg)) = op.toNat * 2 ^ 56 := by
  have := cmdOp_commandWord op arg
  rw [cmdOp] at this
  rw [maskedBits, this]

/-- A plain buffer's fixed bits are 0xA and its control code (R73). -/
theorem maskedBits_plain (F : Frame) (k : Nibble) :
    maskedBits (.plain (layout F k).vec) = 0xA * 2 ^ 52 + F.control.toNat * 2 ^ 44 := by
  rw [maskedBits, vec_nibble0, vec_nibble2, layout_b0_hi, layout_b1_hi]
  rfl

theorem nop : Statement .nop := by
  simp [Statement, encode, maskedBits_command, rowMatch]
theorem setCounter (v : BitVec 32) : Statement (.setCounter v) := by
  simp [Statement, encode, maskedBits_command, rowMatch]
theorem setControl (v : BitVec 32) : Statement (.setControl v) := by
  simp [Statement, encode, maskedBits_command, rowMatch]
theorem setRolling (v : BitVec 32) : Statement (.setRolling v) := by
  simp [Statement, encode, maskedBits_command, rowMatch]
theorem setAddress (v : BitVec 32) : Statement (.setAddress v) := by
  simp [Statement, encode, maskedBits_command, rowMatch]
theorem serialize : Statement .serialize := by
  simp [Statement, encode, maskedBits_command, rowMatch]
theorem deserialize (p : BitVec 56) : Statement (.deserialize p) := by
  simp [Statement, encode, maskedBits_command, rowMatch]
theorem transmit : Statement .transmit := by
  simp [Statement, encode, maskedBits_command, rowMatch]
theorem ctrlMy (c k : Nibble) (r : BitVec 16) (a : BitVec 24) : Statement (.ctrlMy c k r a) := by
  simp [Statement, encode, maskedBits_plain, rowMatch]
theorem ctrlUp (c k : Nibble) (r : BitVec 16) (a : BitVec 24) : Statement (.ctrlUp c k r a) := by
  simp [Statement, encode, maskedBits_plain, rowMatch]
theorem ctrlMyUp (c k : Nibble) (r : BitVec 16) (a : BitVec 24) : Statement (.ctrlMyUp c k r a) := by
  simp [Statement, encode, maskedBits_plain, rowMatch]
theorem ctrlDown (c k : Nibble) (r : BitVec 16) (a : BitVec 24) : Statement (.ctrlDown c k r a) := by
  simp [Statement, encode, maskedBits_plain, rowMatch]
theorem ctrlMyDown (c k : Nibble) (r : BitVec 16) (a : BitVec 24) : Statement (.ctrlMyDown c k r a) := by
  simp [Statement, encode, maskedBits_plain, rowMatch]
theorem ctrlUpDown (c k : Nibble) (r : BitVec 16) (a : BitVec 24) : Statement (.ctrlUpDown c k r a) := by
  simp [Statement, encode, maskedBits_plain, rowMatch]
theorem ctrlProgram (c k : Nibble) (r : BitVec 16) (a : BitVec 24) : Statement (.ctrlProgram c k r a) := by
  simp [Statement, encode, maskedBits_plain, rowMatch]
theorem ctrlSunFlag (c k : Nibble) (r : BitVec 16) (a : BitVec 24) : Statement (.ctrlSunFlag c k r a) := by
  simp [Statement, encode, maskedBits_plain, rowMatch]
theorem ctrlFlag (c k : Nibble) (r : BitVec 16) (a : BitVec 24) : Statement (.ctrlFlag c k r a) := by
  simp [Statement, encode, maskedBits_plain, rowMatch]
theorem ctrlReserved0 (c k : Nibble) (r : BitVec 16) (a : BitVec 24) : Statement (.ctrlReserved0 c k r a) := by
  simp [Statement, encode, maskedBits_plain, rowMatch]
theorem ctrlReserved7 (c k : Nibble) (r : BitVec 16) (a : BitVec 24) : Statement (.ctrlReserved7 c k r a) := by
  simp [Statement, encode, maskedBits_plain, rowMatch]
theorem ctrlReserved11 (c k : Nibble) (r : BitVec 16) (a : BitVec 24) : Statement (.ctrlReserved11 c k r a) := by
  simp [Statement, encode, maskedBits_plain, rowMatch]
theorem ctrlReserved12 (c k : Nibble) (r : BitVec 16) (a : BitVec 24) : Statement (.ctrlReserved12 c k r a) := by
  simp [Statement, encode, maskedBits_plain, rowMatch]
theorem ctrlReserved13 (c k : Nibble) (r : BitVec 16) (a : BitVec 24) : Statement (.ctrlReserved13 c k r a) := by
  simp [Statement, encode, maskedBits_plain, rowMatch]
theorem ctrlReserved14 (c k : Nibble) (r : BitVec 16) (a : BitVec 24) : Statement (.ctrlReserved14 c k r a) := by
  simp [Statement, encode, maskedBits_plain, rowMatch]
theorem ctrlReserved15 (c k : Nibble) (r : BitVec 16) (a : BitVec 24) : Statement (.ctrlReserved15 c k r a) := by
  simp [Statement, encode, maskedBits_plain, rowMatch]
theorem symWake : Statement .symWake := rfl
theorem symHw : Statement .symHw := rfl
theorem symSw : Statement .symSw := rfl
theorem symBit1 : Statement .symBit1 := rfl
theorem symBit0 : Statement .symBit0 := rfl
theorem symGap : Statement .symGap := rfl

end Sys2Proof.Laws.TableWord
end

