-- ==== Sys2Proof/Laws/Run.lean ====
section
/-! SUPPORT. Runs of many steps, one step at a time, and sequences of instructions. -/

namespace Sys2Proof.Machine

theorem core_run_next (M : Host.Core) {n : Nat} {s t : M.State} (h : M.step s = .next t) :
    M.run (n + 1) s = M.run n t := by
  rw [Host.Core.run, h]

theorem core_run_add (M : Host.Core) {n m : Nat} {s t : M.State} (h : M.run n s = .next t) :
    M.run (n + m) s = M.run m t := by
  induction n generalizing s with
  | zero => rw [Nat.zero_add]; cases h; rfl
  | succ n ih =>
    rw [Nat.add_right_comm, Host.Core.run]
    rw [Host.Core.run] at h
    cases e : M.step s with
    | next u => rw [e] at h; exact ih h
    | fault r => rw [e] at h; cases h
    | refused r => rw [e] at h; cases h

/-- A run takes its first step and goes on. -/
theorem run_next {n : Nat} {s t : State} (h : step s = .next t) :
    Host.Core.run core (n + 1) s = Host.Core.run core n t := core_run_next core h

/-- A run can be cut in two. -/
theorem run_add {n m : Nat} {s t : State} (h : Host.Core.run core n s = .next t) :
    Host.Core.run core (n + m) s = Host.Core.run core m t := core_run_add core h

theorem execAll_cons {s t : State} {i : Instr} (rest : List Instr) (h : exec i s = .next t) :
    s.execAll (i :: rest) = t.execAll rest := by
  rw [State.execAll, h]

theorem ticks_add (b : Block) (m n : Nat) : b.ticks (m + n) = (b.ticks m).ticks n := by
  induction m generalizing b with
  | zero => rw [Nat.zero_add]; rfl
  | succ m ih => rw [Nat.add_right_comm]; exact ih b.tick

end Sys2Proof.Machine
end

