-- ==== Sys2Proof/Laws/Step.lean ====
section
/-! SUPPORT. What a step can do, said once: exec's two ways to go on, and the steps of R12. -/

namespace Sys2Proof.Machine

/-- The effects a command step can have on the block (R100 to R104, R116, R118, R146). -/
inductive CommandEffect (b : Block) : Block → Prop
  | nop : CommandEffect b b
  | counter (v : BitVec 32) : CommandEffect b (b.setCounter v)
  | control (v : BitVec 32) : CommandEffect b (b.setControl v)
  | rolling (v : BitVec 32) : CommandEffect b (b.setRolling v)
  | address (v : BitVec 32) : CommandEffect b (b.setAddress v)
  | serialize : CommandEffect b b.serializeFrame
  | decode (P : Buf) : CommandEffect b (b.decodePayload P)
  | transmit : CommandEffect b b.startTransmission

/-- exec always answers a next state: a tick, or a command's effect on an idle block, the host not touched; or, for
a wire frame, more for the host to do, the block not touched. -/
inductive ExecOutcome (s : State) : Host.Outcome State Fault Refusal → Prop
  | tick : ExecOutcome s (.next s.tick)
  | command {b : Block} (idle : s.block.busy = false) (e : CommandEffect s.block b) :
    ExecOutcome s (.next (s.withBlock b))
  | frame (F : Frame) : ExecOutcome s (.next (s.withScript (wireFrameScript F ++ s.host.script)))

theorem command_outcome (s : State) {f : Block → Block} (h : ∀ b, CommandEffect b (f b)) :
    ExecOutcome s (s.command f) := by
  cases hb : s.block.busy with
  | false => exact command_idle f hb ▸ .command hb (h _)
  | true => exact command_busy f hb ▸ .tick

theorem symbol_outcome (s : State) (x : Symbol) : ExecOutcome s (s.symbol x) := symbol_eq_tick s x ▸ .tick

theorem exec_outcome (i : Instr) (s : State) : ExecOutcome s (exec i s) := by
  cases i with
  | nop => exact command_outcome s fun _ => .nop
  | setCounter v => exact command_outcome s fun _ => (.counter v)
  | setControl v => exact command_outcome s fun _ => (.control v)
  | setRolling v => exact command_outcome s fun _ => (.rolling v)
  | setAddress v => exact command_outcome s fun _ => (.address v)
  | serialize => exact command_outcome s fun _ => .serialize
  | deserialize p => exact command_outcome s fun _ => (.decode _)
  | transmit => exact command_outcome s fun _ => .transmit
  | ctrlMy c k r a => exact .frame _
  | ctrlUp c k r a => exact .frame _
  | ctrlMyUp c k r a => exact .frame _
  | ctrlDown c k r a => exact .frame _
  | ctrlMyDown c k r a => exact .frame _
  | ctrlUpDown c k r a => exact .frame _
  | ctrlProgram c k r a => exact .frame _
  | ctrlSunFlag c k r a => exact .frame _
  | ctrlFlag c k r a => exact .frame _
  | ctrlReserved0 c k r a => exact .frame _
  | ctrlReserved7 c k r a => exact .frame _
  | ctrlReserved11 c k r a => exact .frame _
  | ctrlReserved12 c k r a => exact .frame _
  | ctrlReserved13 c k r a => exact .frame _
  | ctrlReserved14 c k r a => exact .frame _
  | ctrlReserved15 c k r a => exact .frame _
  | symWake => exact symbol_outcome s .wake
  | symHw => exact symbol_outcome s .hw
  | symSw => exact symbol_outcome s .sw
  | symBit1 => exact symbol_outcome s .bit1
  | symBit0 => exact symbol_outcome s .bit0
  | symGap => exact symbol_outcome s .gap

/-- Fetching the symbol on the line and executing it is the tick step (R147). -/
theorem lineTick_eq (s : State) : s.lineTick = .next s.tick := by
  unfold State.lineTick
  split
  · next x k h => cases x <;> exact symbol_eq_tick s _
  · rfl

theorem issue_command (s : State) (w : BitVec 59) : s.issue (.command w) = exec (decodeCommand w) s := rfl

theorem issue_ok {s : State} {c : CodeWord} {i : Instr} (h : decode c = .ok i) : s.issue c = exec i s := by
  simp only [State.issue, h]

theorem issue_error {s : State} {c : CodeWord} {e : DecodeError} (h : decode c = .error e) :
    s.issue c = .refused (.undecodable e) := by
  simp only [State.issue, h]

/-- What a step with `rst = 0` can do to the block: nothing (the host's own actions), a tick, or a command on an
idle block (R12). -/
inductive BlockStep (b : Block) : Block → Prop
  | host : BlockStep b b
  | tick : BlockStep b b.tick
  | command {c : Block} (idle : b.busy = false) (e : CommandEffect b c) : BlockStep b c

theorem BlockStep.of_exec {i : Instr} {s t : State} (h : exec i s = .next t) : BlockStep s.block t.block := by
  have o := exec_outcome i s
  rw [h] at o
  cases o with
  | tick => exact .tick
  | command idle e => exact .command idle e
  | frame => exact .host

theorem BlockStep.of_issue {c : CodeWord} {s t : State} (h : s.issue c = .next t) :
    BlockStep s.block t.block := by
  unfold State.issue at h
  split at h
  · exact .of_exec h
  · cases h

theorem BlockStep.of_lineTick {s t : State} (h : s.lineTick = .next t) : BlockStep s.block t.block := by
  rw [lineTick_eq] at h; cases h; exact .tick

theorem BlockStep.of_hold {s t d : State} {w : BitVec 59} (e : d.block = s.block) (h : s.hold w d = .next t) :
    BlockStep s.block t.block := by
  unfold State.hold at h
  split at h
  · exact e ▸ .of_issue h
  · exact .of_lineTick h

theorem BlockStep.of_sendStage {s t : State} {p : SendCall} (h : s.sendStage p = .next t) :
    BlockStep s.block t.block := by
  unfold State.sendStage at h
  split at h
  · exact BlockStep.of_hold (d := s.withCall (some p.next)) rfl h
  · split at h
    · cases h; exact .host
    · split at h
      · cases h; exact .host
      · exact .of_lineTick h

theorem BlockStep.of_sendStep {s t : State} {p : SendCall} (h : s.sendStep p = .next t) :
    BlockStep s.block t.block := by
  unfold State.sendStep at h
  split at h
  · exact .of_sendStage h
  · exact BlockStep.of_lineTick (s := s.withCall (some p.paused)) h

theorem BlockStep.of_act {s t : State} {a : HostAction} {rest : List HostAction} (h : s.act rest a = .next t) :
    BlockStep s.block t.block := by
  cases a with
  | present w => exact .of_hold (d := s.withScript rest) rfl h
  | offer w =>
    simp only [State.act] at h; split at h
    · exact BlockStep.of_issue (s := s.withScript rest) h
    · exact BlockStep.of_lineTick (s := s.withScript (.pass 1 :: rest)) h
  | frame w => exact BlockStep.of_issue (s := s.withScript rest) h
  | pass n =>
    cases n with
    | zero => cases h; exact .host
    | succ n => exact BlockStep.of_lineTick (s := s.withScript (.pass n :: rest)) h
  | wait =>
    simp only [State.act] at h; split at h
    · cases h; exact .host
    · exact .of_lineTick h
  | startUp => cases h; exact .host
  | setFrame a c k r => cases h; exact .host
  | send code pauses => cases h; exact .host

theorem BlockStep.of_hostStep {s t : State} (h : s.hostStep = .next t) : BlockStep s.block t.block := by
  unfold State.hostStep at h
  split at h
  · exact .of_sendStep h
  · split at h
    · exact .of_lineTick h
    · exact .of_act h

/-- With `rst = 1` a step is the reset step, whatever else there is to do (R185, R200). -/
theorem step_reset {s : State} (h : s.rst = true) : step s = .next s.resetStep := by
  rw [step, State.nextStep, if_pos h]

/-- With `rst = 0` a step is the host's, with the next reset one step nearer. -/
theorem step_host {s : State} (h : s.rst = false) : step s = s.elapse.hostStep := by
  rw [step, State.nextStep, h]; rfl

/-- The step of a host inside a SendControlCode. -/
theorem step_call {s : State} {p : SendCall} (h : s.rst = false) (hc : s.host.call = some p) :
    step s = s.elapse.sendStep p := by
  rw [step_host h, State.hostStep, elapse_call, hc]

/-- A SendControlCode while the host lets ticks pass, and when it goes on. -/
theorem sendStep_paused {s : State} {p : SendCall} (h : p.pause ≠ 0) :
    s.sendStep p = .next (s.withCall (some p.paused)).tick := by
  rw [State.sendStep, if_neg h]; exact lineTick_eq _

theorem sendStep_stage {s : State} {p : SendCall} (h : p.pause = 0) : s.sendStep p = s.sendStage p := by
  rw [State.sendStep, if_pos h]

/-- What a SendControlCode holds on the port, it holds with no ticks left to let pass. -/
theorem word_some {p : SendCall} {w : BitVec 59} (h : p.word = some w) : p.pause = 0 ∧ p.command = some w := by
  unfold SendCall.word at h
  split at h
  · exact ⟨‹_›, h⟩
  · cases h

/-- A SendControlCode with a command on the port has its transmission before it. -/
theorem sent_of_word {p : SendCall} {w : BitVec 59} {b : Block} (h : p.word = some w) : p.sent b = false := by
  have := (word_some h).2
  unfold SendCall.command at this
  unfold SendCall.sent
  cases e : p.stage <;> simp [e] at this ⊢

/-- The step of a host with an action to do. -/
theorem step_act {s : State} {a : HostAction} {rest : List HostAction} (h : s.rst = false)
    (hc : s.host.call = none) (hs : s.host.script = a :: rest) : step s = s.elapse.act rest a := by
  rw [step_host h, State.hostStep, elapse_call, hc, elapse_script, hs]

/-- The step of a host with nothing to do is a tick. -/
theorem step_nil {s : State} (h : s.rst = false) (hc : s.host.call = none) (hs : s.host.script = []) :
    step s = .next s.elapse.tick := by
  rw [step_host h, State.hostStep, elapse_call, hc, elapse_script, hs]
  exact lineTick_eq _

/-- A held command is accepted by an idle block, and waits at a busy one (R205). -/
theorem hold_idle {s d : State} {w : BitVec 59} (h : s.block.busy = false) :
    s.hold w d = exec (decodeCommand w) d := by
  rw [State.hold, Block.cmdReady, h]; rfl

theorem hold_busy {s d : State} {w : BitVec 59} (h : s.block.busy = true) : s.hold w d = .next s.tick := by
  rw [State.hold, Block.cmdReady, h]; exact lineTick_eq s

/-- The inversion lemma of the step: the reset step, or one of the others. -/
theorem step_block {s t : State} (h : step s = .next t) :
    (s.rst = true ∧ t = s.resetStep) ∨ (s.rst = false ∧ BlockStep s.block t.block) := by
  cases hr : s.rst with
  | true => rw [step_reset hr] at h; cases h; exact .inl ⟨rfl, rfl⟩
  | false => rw [step_host hr] at h; exact .inr ⟨rfl, BlockStep.of_hostStep (s := s.elapse) h⟩

/-! Coming resets. -/

theorem noResetFor_rst {s : State} {n : Nat} (h : s.NoResetFor (n + 1)) : s.rst = false := by
  cases e : s.host.resets with
  | nil => simp [State.rst, e]
  | cons k rest =>
    have := h k rest e
    have : k ≠ 0 := by omega
    simp [State.rst, e, this]

theorem noResetFor_later {s t : State} {n m : Nat} (h : s.NoResetFor (n + m))
    (e : t.host.resets = laterResets n s.host.resets) : t.NoResetFor m := by
  intro k rest hk
  rw [e] at hk
  cases hs : s.host.resets with
  | nil => rw [hs] at hk; cases hk
  | cons j more =>
    rw [hs] at hk
    have := h j more hs
    cases hk
    omega

theorem laterResets_add (n m : Nat) (l : List Nat) : laterResets m (laterResets n l) = laterResets (n + m) l := by
  cases l with
  | nil => rfl
  | cons k rest => simp only [laterResets, Nat.sub_sub]

theorem laterResets_zero (l : List Nat) : laterResets 0 l = l := by cases l <;> rfl

end Sys2Proof.Machine
end

