-- ==== Sys2Proof/Tests/Slice0.lean ====
section
/-! SUPPORT. The model's own tests, their expected values taken from `95_test_vectors.md` and the encoding tables,
and the witnesses: for every statement with hypotheses, a state and operands that meet them. -/

namespace Sys2Proof.Tests

open Sys2Proof.Machine

/-- An idle block after reset, beside a store that holds 50 and the host's actions. -/
def idle (script : List HostAction) : State := ⟨Block.reset, ⟨50#16, none, script, []⟩⟩

/-- The known frame of V1. -/
def known : Frame := ⟨7#4, 8#4, 0x0033#16, 0xC0FFEE#24⟩

/-- An idle block with the known frame. -/
def loaded (script : List HostAction) : State := ⟨{ Block.reset with fr := known }, ⟨50#16, none, script, []⟩⟩

/-- The known frame's transmission at segment `s` with `r` ticks left in it (V23). -/
def sending (s : BitVec 10) (r : BitVec 16) : Block :=
  { ({ Block.reset with fr := known } : Block).startTransmission with seg := s, rem := r }

/-- A busy state. -/
def busy (s : BitVec 10) (r : BitVec 16) (script : List HostAction) : State :=
  ⟨sending s r, ⟨50#16, none, script, []⟩⟩

/-- A state whose host asserts `rst` at the steps `resets` names. -/
def resetting (s : State) (resets : List Nat) : State := { s with host := { s.host with resets } }

/-- SEND Program after reading 50 from the store, at a stage. -/
def program (stage : SendStage) (pauses : List Nat := []) : SendCall := ⟨.program, 50#16, stage, pauses⟩

/-- The block of a next state. -/
def blockOf (o : Host.Outcome State Fault Refusal) : Option Block :=
  match o with
  | .next t => some t.block
  | .fault _ => none
  | .refused _ => none

/-! ## Well-formedness: one check, and a term it refuses -/

/-- V14, k = 8: the checksum nibble is 9. -/
theorem test_wellFormed_accepts : (Instr.ctrlProgram 7#4 9#4 0x0033#16 0xC0FFEE#24).wellFormed = true := by decide
theorem test_wellFormed_refuses_wrong_checksum :
    (Instr.ctrlProgram 7#4 8#4 0x0033#16 0xC0FFEE#24).wellFormed = false := by decide

/-! ## Decoding: a written-out word for every constructor -/

/-- V8, V12, V13: one word per command. -/
theorem test_decode_commands :
    decode (.command 0x0FFFFFFFFFFFFFF#59) = .ok .nop ∧
    decode (.command 0x1FFFFFF00000003#59) = .ok (.setCounter 3#32) ∧
    decode (.command 0x200000000000018#59) = .ok (.setControl 0x18#32) ∧
    decode (.command 0x300000000012345#59) = .ok (.setRolling 0x12345#32) ∧
    decode (.command 0x400000012C0FFEE#59) = .ok (.setAddress 0x12C0FFEE#32) ∧
    decode (.command 0x500000000000000#59) = .ok .serialize ∧
    decode (.command 0x6FFDE738C4C6D2F#59) = .ok (.deserialize 0xFFDE738C4C6D2F#56) ∧
    decode (.command 0x700000000000000#59) = .ok .transmit := by decide

/-- V14: the plain buffer of the frame (7, k, 0x0033, 0xC0FFEE), defined values of k. -/
theorem test_decode_defined_control_codes :
    decode (.plain 0xA7100033EEFFC0#56) = .ok (.ctrlMy 7#4 0#4 0x0033#16 0xC0FFEE#24) ∧
    decode (.plain 0xA7230033EEFFC0#56) = .ok (.ctrlUp 7#4 3#4 0x0033#16 0xC0FFEE#24) ∧
    decode (.plain 0xA7320033EEFFC0#56) = .ok (.ctrlMyUp 7#4 2#4 0x0033#16 0xC0FFEE#24) ∧
    decode (.plain 0xA7450033EEFFC0#56) = .ok (.ctrlDown 7#4 5#4 0x0033#16 0xC0FFEE#24) ∧
    decode (.plain 0xA7540033EEFFC0#56) = .ok (.ctrlMyDown 7#4 4#4 0x0033#16 0xC0FFEE#24) ∧
    decode (.plain 0xA7670033EEFFC0#56) = .ok (.ctrlUpDown 7#4 7#4 0x0033#16 0xC0FFEE#24) ∧
    decode (.plain 0xA7890033EEFFC0#56) = .ok (.ctrlProgram 7#4 9#4 0x0033#16 0xC0FFEE#24) ∧
    decode (.plain 0xA7980033EEFFC0#56) = .ok (.ctrlSunFlag 7#4 8#4 0x0033#16 0xC0FFEE#24) ∧
    decode (.plain 0xA7AB0033EEFFC0#56) = .ok (.ctrlFlag 7#4 11#4 0x0033#16 0xC0FFEE#24) := by decide

/-- V14: the plain buffer of the frame (7, k, 0x0033, 0xC0FFEE), reserved values of k. -/
theorem test_decode_reserved_control_codes :
    decode (.plain 0xA7010033EEFFC0#56) = .ok (.ctrlReserved0 7#4 1#4 0x0033#16 0xC0FFEE#24) ∧
    decode (.plain 0xA7760033EEFFC0#56) = .ok (.ctrlReserved7 7#4 6#4 0x0033#16 0xC0FFEE#24) ∧
    decode (.plain 0xA7BA0033EEFFC0#56) = .ok (.ctrlReserved11 7#4 10#4 0x0033#16 0xC0FFEE#24) ∧
    decode (.plain 0xA7CD0033EEFFC0#56) = .ok (.ctrlReserved12 7#4 13#4 0x0033#16 0xC0FFEE#24) ∧
    decode (.plain 0xA7DC0033EEFFC0#56) = .ok (.ctrlReserved13 7#4 12#4 0x0033#16 0xC0FFEE#24) ∧
    decode (.plain 0xA7EF0033EEFFC0#56) = .ok (.ctrlReserved14 7#4 15#4 0x0033#16 0xC0FFEE#24) ∧
    decode (.plain 0xA7FE0033EEFFC0#56) = .ok (.ctrlReserved15 7#4 14#4 0x0033#16 0xC0FFEE#24) := by decide

/-- R81: the segments of every symbol. -/
theorem test_decode_symbols :
    decode (.pulses [⟨true, 10000⟩, ⟨false, 38000⟩]) = .ok .symWake ∧
    decode (.pulses [⟨true, 2500⟩, ⟨false, 2500⟩]) = .ok .symHw ∧
    decode (.pulses [⟨true, 4800⟩, ⟨false, 640⟩]) = .ok .symSw ∧
    decode (.pulses [⟨false, 640⟩, ⟨true, 640⟩]) = .ok .symBit1 ∧
    decode (.pulses [⟨true, 640⟩, ⟨false, 640⟩]) = .ok .symBit0 ∧
    decode (.pulses [⟨false, 34000⟩]) = .ok .symGap := by decide

/-- R73: a first nibble that is not 0xA is no plain buffer; R81: a lone high half-bit is no symbol. -/
theorem test_decode_rejects :
    decode (.plain 0x27090033EEFFC0#56) = .error .notAPlainBuffer ∧
    decode (.pulses [⟨true, 640⟩]) = .error .notASymbol := by decide

theorem test_decodeTableWord :
    decodeTableWord 64 0x700000000000000 = some .transmit ∧ decodeTableWord 64 0x800000000000000 = none ∧
    decodeTableWord 56 0xA0100000000000 = some (.ctrlMy 0#4 0#4 0#16 0#24) ∧
    decodeTableWord 8 0b01 = some .symBit1 := by decide

/-- R74, V1: the encoder's word of the known frame's row is its plain buffer. -/
theorem test_encode_known_frame :
    encode (.ctrlProgram 7#4 9#4 0x0033#16 0xC0FFEE#24) = .plain 0xA7890033EEFFC0#56 := by decide

/-! ## Frame-field commands (V8) -/

theorem test_nop : blockOf (exec .nop (loaded [])) = some { Block.reset with fr := known } := by decide
theorem test_setCounter_masks : (blockOf (exec (.setCounter 255#32) (idle []))).map (·.fr) = some ⟨15#4, 0#4, 0#16, 0#24⟩ := by
  decide
theorem test_setControl_reserved : (blockOf (exec (.setControl 7#32) (idle []))).map (·.fr) = some ⟨0#4, 7#4, 0#16, 0#24⟩ := by
  decide
theorem test_setRolling_wraps :
    (blockOf (exec (.setRolling 0x10000#32) (loaded []))).map (·.fr.rolling) = some 0#16 := by decide
theorem test_setAddress_masks :
    (blockOf (exec (.setAddress 0x12C0FFEE#32) (idle []))).map (·.fr) = some ⟨0#4, 0#4, 0#16, 0xC0FFEE#24⟩ := by decide

/-! ## The codec (V1, V2, V10, V11, V13) -/

/-- V10, last but one row. -/
theorem test_checksum : checksum ⟨0x12#8, 0x34#8, 0x56#8, 0x78#8, 0x9A#8, 0xBC#8, 0xDE#8⟩ = 0xF#4 := by decide
/-- V11, row 6. -/
theorem test_obfuscate : obfuscate ⟨0x12#8, 0x34#8, 0x56#8, 0x78#8, 0x9A#8, 0xBC#8, 0xDE#8⟩ =
    ⟨0x12#8, 0x26#8, 0x70#8, 0x08#8, 0x92#8, 0x2E#8, 0xF0#8⟩ := by decide
theorem test_deobfuscate : deobfuscate ⟨0x12#8, 0x34#8, 0x56#8, 0x78#8, 0x9A#8, 0xBC#8, 0xDE#8⟩ =
    ⟨0x12#8, 0x26#8, 0x62#8, 0x2E#8, 0xE2#8, 0x26#8, 0x62#8⟩ := by decide
/-- V1. -/
theorem test_serialize_known : (blockOf (exec .serialize (loaded []))).map (·.payloadOut) = some 0xA72E2E1DF30CCC#56 := by
  decide
/-- V12, row 8. -/
theorem test_serialize_mixed : serialize ⟨5#4, 5#4, 0xFFFF#16, 0xABCDEF#24⟩ =
    ⟨0xA5#8, 0xFE#8, 0x01#8, 0xFE#8, 0x11#8, 0xDC#8, 0x77#8⟩ := by decide
/-- V13, last row: a two-bit error that keeps the last byte's nibbles equal is accepted. -/
theorem test_deserialize_accepts :
    (blockOf (exec (.deserialize 0xA72E2E1DF30CDD#56) (idle []))).map (fun b => (b.df, b.dv, b.ce)) =
      some (⟨7#4, 8#4, 0x0033#16, 0xD1FFEE#24⟩, true, false) := by decide
/-- V2, P2 step 2: the old frame stays. -/
theorem test_deserialize_signals :
    blockOf ((idle []).execAll [.deserialize 0xA72E2E1DF30CCC#56, .deserialize 0xFFDE738C4C6D2F#56]) =
      some { Block.reset with df := known, dv := false, ce := true } := by decide

/-! ## TRANSMIT and the line (V15, V16, V23) -/

theorem test_transmit :
    (blockOf (exec .transmit (loaded []))).map (fun b => (b.payloadOut, b.busy, b.seg, b.rem, b.tx)) =
      some (0xA72E2E1DF30CCC#56, true, 0#10, 10000#16, true) := by decide
/-- P7: after reset. -/
theorem test_transmit_after_reset :
    (blockOf (exec .transmit (idle []))).map (·.payloadOut) = some 0xA0AAAAAAAAAAAA#56 := by decide
/-- V15, byte A7. -/
theorem test_manchester_byte : (List.range 16).map (fun q => (payloadSegment ⟨0xA7#8, 0#8, 0#8, 0#8, 0#8, 0#8, 0#8⟩ q).level) =
    [false, true, true, false, false, true, true, false, true, false, false, true, false, true, false, true] := by decide
/-- V23, k = 10000, 48000, 840720 and 874720: the tick before each. -/
theorem test_tick_wake : (sending 0#10 1#16).tick = sending 1#10 38000#16 := by decide
theorem test_tick_hw : (sending 1#10 1#16).tick = sending 2#10 2500#16 ∧ (sending 2#10 2500#16).tx = true := by decide
theorem test_tick_last : (sending 754#10 1#16).tick = sending 755#10 34000#16 := by decide
theorem test_tick_stop : (sending 755#10 1#16).tick = { sending 0#10 0#16 with busy := false } := by decide
/-- V23, k = 100000. -/
theorem test_tx_bit28 : (sending 65#10 560#16).tx = true ∧ segStart 65 + (640 - 560) = 100000 := by decide
/-- R150: the last payload and the final delay. -/
theorem test_segStart : segStart 643 = 769040 ∧ segStart 755 = 840720 ∧ segStart 756 = 874720 := by decide
/-- R143, V24: the first calls. -/
theorem test_calls : (calls (serialize known)).take 8 =
    [.setHigh, .delay 10000, .setLow, .delay 38000, .setHigh, .delay 2500, .setLow, .delay 2500] := by decide

/-! ## Symbols (R81, V23) -/

theorem test_symWake : blockOf (exec .symWake (busy 0#10 1#16 [])) = some (sending 1#10 38000#16) := by decide
theorem test_symHw : blockOf (exec .symHw (busy 5#10 1#16 [])) = some (sending 6#10 4800#16) := by decide
theorem test_symSw : blockOf (exec .symSw (busy 6#10 1#16 [])) = some (sending 7#10 640#16) := by decide
/-- Wire bit 0 is 1, wire bit 1 is 0 (V16). -/
theorem test_symBit1 : blockOf (exec .symBit1 (busy 8#10 1#16 [])) = some (sending 9#10 640#16) ∧
    (sending 9#10 640#16).tx = true := by decide
theorem test_symBit0 : blockOf (exec .symBit0 (busy 11#10 640#16 [])) = some (sending 11#10 639#16) ∧
    (sending 11#10 639#16).tx = false := by decide
theorem test_symGap : blockOf (exec .symGap (busy 120#10 1#16 [])) = some (sending 121#10 2500#16) := by decide

/-! ## Wire frames (V14; log 1) -/

/-- The words are those of V8 and V1, and the block is as it was. -/
theorem test_ctrl_program :
    exec (.ctrlProgram 7#4 9#4 0x0033#16 0xC0FFEE#24) (idle [.wait]) = .next (idle
      [.present 0x400000000C0FFEE#59, .present 0x100000000000007#59, .present 0x200000000000008#59,
        .present 0x300000000000033#59, .present 0x500000000000000#59, .wait]) := by rfl
theorem test_ctrl_program_run :
    (blockOf (Host.Core.run core 6 (idle [.frame 0xA7890033EEFFC0#56]))).map (fun b => (b.fr, b.payloadOut)) =
      some (known, 0xA72E2E1DF30CCC#56) := by decide
theorem test_ctrl_reserved7_run :
    (blockOf (Host.Core.run core 6 (idle [.frame 0xA7760033EEFFC0#56]))).map (·.payloadOut) =
      some 0xA7D1D1E20CF333#56 := by decide

/-! ## Steps and the host -/

/-- The store of a next state. -/
def storeOf (o : Host.Outcome State Fault Refusal) : Option (BitVec 16) :=
  match o with
  | .next t => some t.host.store
  | .fault _ => none
  | .refused _ => none

/-- The next step after placing a word runs its instruction, from reset. -/
theorem test_withFetchWord_command :
    (blockOf (step (State.reset.withFetchWord 64 0x1000000000000FF))).map (·.fr.counter) = some 15#4 := by decide
theorem test_withFetchWord_frame :
    step (State.reset.withFetchWord 56 0xA7890033EEFFC0) =
      exec (.ctrlProgram 7#4 9#4 0x0033#16 0xC0FFEE#24) State.reset := by rfl
theorem test_withFetchWord_symbol :
    (blockOf (step (State.reset.withFetchWord 8 0b01))).map (fun b => (b.seg, b.rem)) = some (8#10, 639#16) := by decide
/-- R202, P5: reset in the middle of a transmission. -/
theorem test_reset_mid_transmission : step (resetting (busy 65#10 560#16 []) [0]) = .next (idle []) := by rfl
/-- R185 (a): a command in the cycle of a reset is not accepted; held, it is accepted in the next. -/
theorem test_reset_wins : step (resetting (loaded [.present 0x1000000000000FF#59]) [0]) =
    .next (idle [.present 0x1000000000000FF#59]) ∧
    (resetting (loaded [.present 0x1000000000000FF#59]) [0]).cmdValid = true ∧
    (resetting (loaded [.present 0x1000000000000FF#59]) [0]).block.cmdReady = true ∧
    (resetting (loaded [.present 0x1000000000000FF#59]) [0]).accepting = false := ⟨rfl, rfl, rfl, rfl⟩
/-- R175, R202: a reset during a SEND's transmission abandons it, one after the transmission does not. -/
theorem test_reset_in_send :
    step (resetting ((busy 65#10 560#16 []).withCall (some (program .wait))) [0]) = .next (idle []) ∧
    step (resetting ((idle []).withCall (some (program .persist))) [0]) =
      .next ((idle []).withCall (some (program .persist))) := ⟨rfl, rfl⟩
/-- R205: a command withdrawn while busy is lost, a held one waits. -/
theorem test_offer_lost : step (busy 65#10 560#16 [.offer 0x300000000000063#59]) = .next (busy 65#10 559#16 [.pass 1]) := by rfl
theorem test_present_held : step (busy 65#10 560#16 [.present 0x300000000000063#59]) =
    .next (busy 65#10 559#16 [.present 0x300000000000063#59]) := by rfl
/-- P3, steps 3 to 6: SEND reads the store and issues its commands. -/
theorem test_send_reads : step (idle [.send .program []]) = .next ((idle []).withCall (some (program .setControl))) := by
  rfl
theorem test_send_words : (program .setControl).word = some 0x200000000000008#59 ∧
    (program .setRolling).word = some 0x300000000000033#59 ∧ (program .transmit).word = some 0x700000000000000#59 ∧
    (program .wait).word = none := by decide
/-- R171, R175: after WAIT, StoreWrite. -/
theorem test_send_persists :
    step ((idle []).withCall (some (program .wait))) = .next ((idle []).withCall (some (program .persist))) ∧
    storeOf (step ((idle []).withCall (some (program .persist)))) = some 51#16 := ⟨rfl, by decide⟩
/-- R177: ticks pass between the commands of a SEND, with nothing on the port. -/
theorem test_send_pauses :
    step ((idle []).withCall (some (program .setRolling [2, 7]))) =
      .next ((idle []).withCall (some (program .setRolling [1, 7]))) ∧
    ((idle []).withCall (some (program .setRolling [2, 7]))).portWord = none ∧
    (program .setRolling [0, 7]).next = program .transmit [7] := ⟨rfl, rfl, rfl⟩
/-- V30, row 4: the wrap. -/
theorem test_send_wraps : storeOf (step ((idle []).withCall (some ⟨.up, 0xFFFF#16, .persist, []⟩))) = some 0#16 ∧
    (SendCall.mk .up 0xFFFF#16 .setRolling []).word = some 0x300000000010000#59 := by decide
/-- R215: a run is over although the store is still to be written. -/
theorem test_end_of_run : ((idle [.pass 3, .wait]).withCall (some (program .persist))).EndOfRun := ⟨by decide, rfl⟩

/-! ## Witnesses: every statement's hypotheses can be met -/

theorem idle_busy (l : List HostAction) : (idle l).block.busy = false := rfl
theorem busy_busy (s : BitVec 10) (r : BitVec 16) (l : List HostAction) : (busy s r l).block.busy = true := rfl

/-- The invariant's witness with a transmission running. -/
theorem sending_inv : (sending 65#10 560#16).Inv where
  idle := by decide
  running := by decide
  flags := by decide
  payload := by decide
  sending := by decide

theorem witness_ResetHoldsZeroWhileAsserted :
    (resetting (busy 65#10 560#16 [.wait]) [0, 0, 7]).host.resets = List.replicate (1 + 1) 0 ++ [7] := rfl
theorem witness_ResetAbandonsASend :
    0 < 874720 ∧ 874719 < 874720 ∧
    (resetting (loaded [.send .program [1, 0, 5], .send .up []]) [874729]).block.busy = false ∧
    (resetting (loaded [.send .program [1, 0, 5], .send .up []]) [874729]).host.call = none ∧
    (resetting (loaded [.send .program [1, 0, 5], .send .up []]) [874729]).host.script =
      .send .program [1, 0, 5] :: [.send .up []] ∧
    874729 = [1, 0, 5].getD 0 0 + [1, 0, 5].getD 1 0 + [1, 0, 5].getD 2 0 + 4 + 874719 ∧
    (resetting (loaded [.send .program [1, 0, 5], .send .up []]) [874729]).host.resets = 874729 :: [] := by decide
/-- NOP, the four SETs, SERIALIZE, DESERIALIZE, TRANSMIT, the wire frames, and their sequences: an idle block. -/
theorem witness_commands_idle : (idle []).block.busy = false ∧ (idle []).host.script = [] := ⟨rfl, rfl⟩
/-- An idle block, no SendControlCode, no reset: nothing to do, a tick to pass, a WAIT. -/
theorem witness_NopWritesNothing :
    (idle [.pass (0 + 1)]).rst = false ∧ (idle [.pass (0 + 1)]).host.call = none ∧
    (idle [.pass (0 + 1)]).host.script = .pass (0 + 1) :: [] ∧ (idle [.wait]).rst = false ∧
    (idle [.wait]).host.script = .wait :: [] ∧
    ((idle []).withCall (some (program .transmit [1]))).rst = false ∧
    ((idle []).withCall (some (program .transmit [1]))).host.call = some (program .transmit [1]) ∧
    (program .transmit [1]).pause ≠ 0 := by decide
theorem witness_TransmitWaits : (busy 0#10 1#16 []).block.busy = true := rfl
/-- No reset ever, and one just after the steps a statement speaks of. -/
theorem witness_NoResetFor : (idle []).NoResetFor 874726 ∧ (resetting (idle []) [5]).NoResetFor 5 :=
  ⟨nofun, fun k rest h => by cases h; decide⟩
theorem witness_WireFrames :
    (idle []).block.busy = false ∧ (idle []).host.call = none ∧
    [Instr.setCounter 1#32, .setAddress 4#32, .setRolling 3#32, .setControl 2#32].Perm
      [.setAddress 4#32, .setCounter 1#32, .setControl 2#32, .setRolling 3#32] := by decide
theorem witness_SetCommandsCommuteAndOverride :
    [Instr.setAddress 4#32, .setCounter 1#32, .setControl 2#32, .setRolling 3#32].Perm
      [.setCounter 1#32, .setControl 2#32, .setRolling 3#32, .setAddress 4#32] ∧
    [Instr.setCounter 1#32, .setAddress 4#32].Sublist
      [.setCounter 1#32, .setControl 2#32, .setRolling 3#32, .setAddress 4#32] := by decide
theorem witness_InsertedChecksum : loNibble (layout known 0#4).b1 = 0#4 := by decide
theorem witness_DeserializeAccepts : checksum (deobfuscate (Buf.ofVec 0xA72E2E1DF30CCC#56)) = 0#4 := by decide
theorem witness_DeserializeSignals : checksum (deobfuscate (Buf.ofVec 0xFFDE738C4C6D2F#56)) ≠ 0#4 := by decide
theorem witness_InvalidChecksumIsTaken :
    (0xFFDE738C4C6D2F#56).extractLsb' 4 4 ≠ (0xFFDE738C4C6D2F#56).extractLsb' 0 4 ∧
    (0xA72E2E1DF30CCC#56).extractLsb' 4 4 = (0xA72E2E1DF30CCC#56).extractLsb' 0 4 := by decide
theorem witness_ChecksumErrorStays :
    ({ Block.reset with ce := true } : Block).ce = true ∧ (∀ r, Instr.nop ≠ .deserialize r) ∧
    exec .nop ⟨{ Block.reset with ce := true }, ⟨0#16, none, [], []⟩⟩ = .next ⟨{ Block.reset with ce := true }, ⟨0#16, none, [], []⟩⟩ :=
  ⟨rfl, nofun, rfl⟩
theorem witness_ErrorDetection : ∃ F, deserialize ⟨0xA7#8, 0x2E#8, 0x2E#8, 0x1D#8, 0xF3#8, 0x0C#8, 0xCC#8⟩ = .ok F :=
  ⟨known, by decide⟩
/-- Every clause of the tick step, at its boundary. -/
theorem witness_TickStep :
    (idle []).block.busy = false ∧
    ((sending 0#10 2#16).busy = true ∧ 1 < (sending 0#10 2#16).rem.toNat) ∧
    ((sending 754#10 1#16).busy = true ∧ (sending 754#10 1#16).rem = 1#16 ∧ (sending 754#10 1#16).seg.toNat < 755) ∧
    ((sending 755#10 1#16).busy = true ∧ (sending 755#10 1#16).rem = 1#16 ∧ (sending 755#10 1#16).seg.toNat = 755) := by
  decide
theorem witness_TickMachine :
    33999 < (segAt (serialize known) 755).duration ∧ 0 < (segAt (serialize known) 0).duration := by decide
theorem witness_EveryTransmissionTerminates :
    (sending 65#10 560#16).Inv ∧ (sending 65#10 560#16).busy = true ∧ (sending 65#10 560#16).remaining = 774720 :=
  ⟨sending_inv, rfl, by decide⟩
/-- Every symbol on the line, in each of its segments; and the last tick of the last one. -/
theorem witness_SymbolsRun :
    (List.map (fun s => symbolAt (serialize known) s) [0, 1, 2, 3, 6, 7, 8, 9, 10, 11, 120, 755]) =
      [some (.wake, 0), some (.wake, 1), some (.hw, 0), some (.hw, 1), some (.sw, 0), some (.sw, 1),
        some (.bit1, 0), some (.bit1, 1), some (.bit0, 0), some (.bit0, 1), some (.gap, 0), some (.gap, 0)] ∧
    (busy 755#10 1#16 []).block.busy = true ∧ (busy 755#10 1#16 []).block.rem = 1#16 := by decide
theorem witness_SymbolsWait : ∀ k, (busy 0#10 5#16 []).block.onLine ≠ some (.hw, k) := by
  have e : (busy 0#10 5#16 []).block.onLine = some (.wake, 0) := by decide
  intro k h
  rw [e] at h
  cases h
theorem witness_PlainWord : decode (.plain 0xA7890033EEFFC0#56) = .ok (.ctrlProgram 7#4 9#4 0x0033#16 0xC0FFEE#24) := by
  decide
theorem witness_OperandFormatsAreThoseOfR72 :
    (0xFFFFFF00000003#56).extractLsb' 0 32 = (0x00000000000003#56).extractLsb' 0 32 := by decide
/-- A word presented, offered, held by a SendControlCode, a wire frame, and a reset against the first two. -/
theorem witness_StepRunsTheDecodedInstruction :
    ((idle [.present 0x1000000000000FF#59]).rst = false ∧
      (idle [.present 0x1000000000000FF#59]).block.busy = false ∧
      (idle [.present 0x1000000000000FF#59]).host.call = none ∧
      (idle [.present 0x1000000000000FF#59]).host.script = .present 0x1000000000000FF#59 :: [] ∧
      decode (.command 0x1000000000000FF#59) = .ok (.setCounter 255#32)) ∧
    (idle [.offer 0x1000000000000FF#59]).host.script = .offer 0x1000000000000FF#59 :: [] ∧
    (((idle []).withCall (some (program .transmit))).rst = false ∧
      ((idle []).withCall (some (program .transmit))).host.call = some (program .transmit) ∧
      (program .transmit).word = some 0x700000000000000#59 ∧
      decode (.command 0x700000000000000#59) = .ok .transmit) ∧
    (busy 8#10 640#16 [.frame 0xA7890033EEFFC0#56]).host.script = .frame 0xA7890033EEFFC0#56 :: [] ∧
    ((resetting (busy 8#10 640#16 [.present 0#59]) [0]).rst = true ∧
      (resetting (busy 8#10 640#16 [.present 0#59]) [0]).host.script = .present 0#59 :: [] ∧
      (resetting (idle [.offer 0#59]) [0]).rst = true ∧
      (resetting (idle [.offer 0#59]) [0]).host.script = .offer 0#59 :: []) := by decide
/-- A symbol on the line beside each kind of host. -/
theorem witness_StepRunsTheSymbol :
    ((busy 8#10 640#16 []).block.busy = true ∧ (busy 8#10 640#16 []).rst = false ∧
      (busy 8#10 640#16 []).host.call = none ∧ (busy 8#10 640#16 []).host.script = [] ∧
      symbolAt (busy 8#10 640#16 []).block.pb (busy 8#10 640#16 []).block.seg.toNat = some (.bit1, 0)) ∧
    (busy 8#10 640#16 [.pass (2 + 1)]).host.script = .pass (2 + 1) :: [] ∧
    (busy 8#10 640#16 [.wait]).host.script = .wait :: [] ∧
    (busy 8#10 640#16 [.present 0#59]).host.script = .present 0#59 :: [] ∧
    (busy 8#10 640#16 [.offer 0#59]).host.script = .offer 0#59 :: [] ∧
    (busy 8#10 640#16 [.pass 0]).host.script = .pass 0 :: [] ∧
    (busy 8#10 640#16 [.frame 0xA7890033EEFFC0#56]).host.script = .frame 0xA7890033EEFFC0#56 :: [] ∧
    (0xA7890033EEFFC0#56).extractLsb' 52 4 = 0xA#4 ∧
    (((busy 8#10 640#16 []).withCall (some (program .wait))).host.call = some (program .wait) ∧
      (program .wait).pause = 0 ∧ (program .wait [4]).pause ≠ 0 ∧
      (program .wait).stage ≠ .persist ∧ (program .persist).stage = .persist) := by decide
theorem witness_HeldCommands :
    (busy 65#10 560#16 [.present 0x300000000000063#59]).block.busy = true ∧
    (busy 65#10 560#16 [.present 0x300000000000063#59]).rst = false ∧
    (busy 65#10 560#16 [.present 0x300000000000063#59]).host.call = none ∧
    (busy 65#10 560#16 [.present 0x300000000000063#59]).block.Inv ∧
    (busy 65#10 560#16 [.present 0x300000000000063#59]).NoResetFor 774721 :=
  ⟨rfl, rfl, rfl, sending_inv, nofun⟩
/-- A word not accepted: held, offered, held by a SEND; at a busy block and at a reset. -/
theorem witness_UnacceptedWords :
    ((busy 65#10 560#16 [.present 5#59]).portWord = some 5#59 ∧
      (busy 65#10 560#16 [.present 5#59]).accepting = false) ∧
    ((busy 65#10 560#16 [.offer 5#59, .offer 6#59]).portWord = some 5#59 ∧
      (busy 65#10 560#16 [.offer 5#59, .offer 6#59]).accepting = false ∧
      step (busy 65#10 560#16 [.offer 5#59, .offer 6#59]) = .next (busy 65#10 559#16 [.pass 1, .offer 6#59])) ∧
    ((resetting ((busy 65#10 560#16 [.present 6#59]).withCall (some (program .transmit))) [0]).portWord =
        some 0x700000000000000#59 ∧
      (resetting ((busy 65#10 560#16 [.present 6#59]).withCall (some (program .transmit))) [0]).accepting = false ∧
      step (resetting ((busy 65#10 560#16 [.present 6#59]).withCall (some (program .transmit))) [0]) =
        .next (idle [.pass 1, .present 6#59])) :=
  ⟨⟨rfl, rfl⟩, ⟨rfl, rfl, rfl⟩, ⟨by decide, by decide, rfl⟩⟩
theorem witness_NothingChangesInFlight :
    (busy 65#10 560#16 []).block.busy = true ∧ (busy 65#10 560#16 []).rst = false ∧
    step (busy 65#10 560#16 []) = .next (busy 65#10 559#16 []) :=
  ⟨rfl, rfl, rfl⟩
/-- DESERIALIZE writes all three decode registers, SET_COUNTER `FR`, SERIALIZE `PB`, TRANSMIT `BUSY`. -/
theorem witness_WhoWrites :
    (∃ t, exec (.deserialize 0xA72E2E1DF30CCC#56) (idle []) = .next t ∧ t.block.df ≠ (idle []).block.df ∧
      t.block.dv ≠ (idle []).block.dv) ∧
    (∃ t, exec (.setCounter 7#32) (idle []) = .next t ∧ t.block.fr ≠ (idle []).block.fr) ∧
    (∃ t, exec .serialize (idle []) = .next t ∧ t.block.pb ≠ (idle []).block.pb) ∧
    (∃ t, exec .transmit (idle []) = .next t ∧ t.block.busy = true) ∧
    ∃ t, exec (.ctrlMy 7#4 0#4 0x0033#16 0xC0FFEE#24) (idle []) = .next t ∧ t.host.script ≠ (idle []).host.script :=
  ⟨⟨_, rfl, by decide, by decide⟩, ⟨_, rfl, by decide⟩, ⟨_, rfl, by decide⟩, ⟨_, rfl, rfl⟩, ⟨_, rfl, by decide⟩⟩
/-- The one step that does not go on. -/
theorem witness_EveryStepGoesOn :
    step (idle [.frame 0x27090033EEFFC0#56]) = .refused (.undecodable .notAPlainBuffer) := rfl
theorem witness_StepKeepsInvariant :
    (busy 65#10 560#16 []).block.Inv ∧ step (busy 65#10 560#16 []) = .next (busy 65#10 559#16 []) :=
  ⟨sending_inv, rfl⟩
theorem witness_Send :
    (loaded [.send .program [3]]).block.busy = false ∧ (loaded [.send .program [3]]).block.seg = 0#10 ∧
    (loaded [.send .program [3]]).block.rem = 0#16 ∧ (loaded [.send .program [3]]).host.call = none ∧
    (loaded [.send .program [3]]).host.script = [.send .program [3]] ∧
    7 = [3].getD 0 0 + [3].getD 1 0 + [3].getD 2 0 + 4 ∧
    874729 = 7 + max ([3].getD 3 0) 874720 + 1 + [3].getD 4 0 + 1 ∧
    (loaded [.send .program [3]]).NoResetFor 874729 :=
  ⟨rfl, rfl, rfl, rfl, rfl, by decide, by decide, nofun⟩
theorem witness_HostOperations :
    (idle [.startUp]).block.busy = false ∧ (idle [.startUp]).host.script = [.startUp] ∧
    (idle [.setFrame 1#32 2#32 3#32 4#32]).host.script = [.setFrame 1#32 2#32 3#32 4#32] ∧
    (idle [.wait]).host.script = [.wait] ∧ (busy 0#10 1#16 [.wait]).block.busy = true ∧
    (idle [.startUp]).host.call = none ∧ (idle [.wait]).rst = false := by decide

end Sys2Proof.Tests
end

/-! Proofs of the statements about the block's state (`10_state.md`). First the checksum as nibbles, which gives the
equal nibbles of a payload's last byte; then what each layer of instructions does, said once; then the statements. -/

namespace Sys2Proof

/-! ## The checksum, nibble by nibble (R110, R115, R124) -/

@[simp] theorem hiNibble_xor (x y : Byte) : hiNibble (x ^^^ y) = hiNibble x ^^^ hiNibble y :=
  BitVec.extractLsb'_xor

@[simp] theorem loNibble_xor (x y : Byte) : loNibble (x ^^^ y) = loNibble x ^^^ loNibble y :=
  BitVec.extractLsb'_xor

theorem loNibble_shiftRight_four (x : Byte) : loNibble (x >>> (4 : Nat)) = hiNibble x := by
  apply BitVec.eq_of_getLsbD_eq
  intro i hi
  rw [loNibble_bit _ hi, hiNibble_bit _ hi, BitVec.getLsbD_ushiftRight]

theorem setWidth_and_lowNibble (x : Byte) : (x &&& 0x0F#8).setWidth 4 = loNibble x := by
  revert x; decide

/-- The exclusive or of a byte's two nibbles: what the byte adds to the checksum. -/
def nibbleSum (x : Byte) : Nibble := hiNibble x ^^^ loNibble x

theorem nibbleSum_xor (x y : Byte) : nibbleSum (x ^^^ y) = nibbleSum x ^^^ nibbleSum y := by
  simp only [nibbleSum, hiNibble_xor, loNibble_xor]
  ac_rfl

theorem nibbleSum_eq_zero {x : Byte} : nibbleSum x = 0#4 ↔ hiNibble x = loNibble x := BitVec.xor_eq_zero_iff

theorem checksum_eq_nibbleSum (B : Buf) :
    checksum B = nibbleSum B.b0 ^^^ nibbleSum B.b1 ^^^ nibbleSum B.b2 ^^^ nibbleSum B.b3 ^^^ nibbleSum B.b4
      ^^^ nibbleSum B.b5 ^^^ nibbleSum B.b6 := by
  simp only [checksum, setWidth_and_lowNibble, Buf.bytes, List.foldl, loNibble_xor, loNibble_shiftRight_four,
    BitVec.zero_xor, nibbleSum]
  ac_rfl

/-- The last byte of the obfuscated buffer is the exclusive or of all seven bytes, so it carries the checksum. -/
theorem nibbleSum_obfuscate_b6 (B : Buf) : nibbleSum (obfuscate B).b6 = checksum B := by
  rw [checksum_eq_nibbleSum]
  simp only [obfuscate, nibbleSum_xor]
  ac_rfl

theorem nibbleSum_layout_b1 (F : Frame) (k : Nibble) : nibbleSum (layout F k).b1 = F.control ^^^ k := by
  rw [nibbleSum, layout_b1_hi, layout_b1_lo]

/-- The checksum nibble enters the checksum by exclusive or, all other bytes of the layout being the same. -/
theorem checksum_layout (F : Frame) (k : Nibble) : checksum (layout F k) = frameChecksum F ^^^ k := by
  have same : (layout F k).b0 = (layout F 0#4).b0 ∧ (layout F k).b2 = (layout F 0#4).b2 ∧
      (layout F k).b3 = (layout F 0#4).b3 ∧ (layout F k).b4 = (layout F 0#4).b4 ∧
      (layout F k).b5 = (layout F 0#4).b5 ∧ (layout F k).b6 = (layout F 0#4).b6 := ⟨rfl, rfl, rfl, rfl, rfl, rfl⟩
  obtain ⟨e0, e2, e3, e4, e5, e6⟩ := same
  simp only [frameChecksum, checksum_eq_nibbleSum, nibbleSum_layout_b1, e0, e2, e3, e4, e5, e6, BitVec.xor_zero]
  ac_rfl

theorem plainBuffer_eq_layout (F : Frame) : plainBuffer F = layout F (frameChecksum F) := by
  simp [plainBuffer, layout, frameChecksum]

/-- The inserted nibble makes the whole checksum zero (R111, R115). -/
@[simp] theorem checksum_plainBuffer (F : Frame) : checksum (plainBuffer F) = 0#4 := by
  rw [plainBuffer_eq_layout, checksum_layout, BitVec.xor_self]

/-- The last byte of a serialized frame has two equal nibbles (R124). -/
theorem serialize_b6_nibbles (F : Frame) : hiNibble (serialize F).b6 = loNibble (serialize F).b6 := by
  rw [← nibbleSum_eq_zero, serialize, nibbleSum_obfuscate_b6, checksum_plainBuffer]

end Sys2Proof

namespace Sys2Proof.Machine

/-! ## The block's invariant, step by step (R12) -/

theorem inv_reset : Block.reset.Inv where
  idle _ := ⟨rfl, rfl⟩
  running := nofun
  flags := by decide
  payload := rfl
  sending := nofun

/-- A tick step keeps the invariant: counting down stays above 0, and a segment entered has a duration that fits
`REM` (R8, R147). -/
theorem Block.Inv.tick {b : Block} (h : b.Inv) : b.tick.Inv := by
  obtain ⟨-, e⟩ | ⟨hb, hr, e⟩ | ⟨hb, -, hs, e⟩ | ⟨-, -, -, e⟩ := tick_cases b
  · rwa [e]
  · obtain ⟨hseg, -, hdur⟩ := h.running hb
    have hrem : (b.rem - 1#16).toNat = b.rem.toNat - 1 := by bv_omega
    rw [e]
    exact
      { idle := fun hi => by simp [hb] at hi
        running := fun _ => by simp only [hrem]; exact ⟨hseg, by omega, by omega⟩
        flags := h.flags
        payload := h.payload
        sending := h.sending }
  · obtain ⟨hlo, hhi⟩ := segAt_duration_bounds b.pb (s := b.seg.toNat + 1) (by omega)
    have hseg : (b.seg + 1#10).toNat = b.seg.toNat + 1 := by bv_omega
    have hrem : (BitVec.ofNat 16 (segAt b.pb (b.seg.toNat + 1)).duration).toNat =
        (segAt b.pb (b.seg.toNat + 1)).duration := Nat.mod_eq_of_lt (by omega)
    rw [e]
    exact
      { idle := fun hi => by simp [hb] at hi
        running := fun _ => by
          simp only [enterSegment_seg, enterSegment_rem, enterSegment_pb, hseg, hrem]
          omega
        flags := h.flags
        payload := h.payload
        sending := h.sending }
  · rw [e]
    exact
      { idle := fun _ => ⟨rfl, rfl⟩
        running := nofun
        flags := h.flags
        payload := h.payload
        sending := nofun }

/-- A command that leaves an idle block's sequencer alone keeps the invariant if it keeps the flags and the payload
well formed. -/
theorem Block.Inv.of_idle {b c : Block} (h : b.Inv) (idle : b.busy = false) (hbusy : c.busy = b.busy)
    (hseg : c.seg = b.seg) (hrem : c.rem = b.rem) (hflags : ¬(c.dv = true ∧ c.ce = true))
    (hpayload : hiNibble c.pb.b6 = loNibble c.pb.b6) : c.Inv where
  idle _ := by rw [hseg, hrem]; exact h.idle idle
  running hc := by simp [hbusy, idle] at hc
  flags := hflags
  payload := hpayload
  sending hc := by simp [hbusy, idle] at hc

/-- TRANSMIT sends the frame in `FR`, from the first tick of segment 0 (R146). -/
theorem Block.Inv.startTransmission {b : Block} (h : b.Inv) : b.startTransmission.Inv where
  idle := nofun
  running _ := ⟨Nat.zero_le _, by rw [startTransmission_rem]; decide, le_rfl⟩
  flags := h.flags
  payload := serialize_b6_nibbles b.fr
  sending _ := rfl

theorem CommandEffect.inv {b c : Block} (e : CommandEffect b c) (h : b.Inv) (idle : b.busy = false) : c.Inv := by
  cases e with
  | nop => exact h
  | counter v | control v | rolling v | address v => exact h.of_idle idle rfl rfl rfl h.flags h.payload
  | serialize => exact h.of_idle idle rfl rfl rfl h.flags (serialize_b6_nibbles b.fr)
  | decode P =>
    obtain ⟨-, hpb, hbusy, hseg, hrem, hce⟩ := decodePayload_frame b P
    exact h.of_idle idle hbusy hseg hrem (by simp [hce]) (hpb ▸ h.payload)
  | transmit => exact h.startTransmission

theorem BlockStep.inv {b c : Block} (e : BlockStep b c) (h : b.Inv) : c.Inv := by
  cases e with
  | host => exact h
  | tick => exact h.tick
  | command idle e => exact e.inv h idle

/-- Settles O57: a step resets the block, or leaves it, ticks it, or runs a command on an idle one. -/
theorem everyStepKeepsTheBlockInvariant : Obligations.EveryStepKeepsTheBlockInvariant := by
  intro s t h hstep
  obtain ⟨-, rfl⟩ | ⟨-, e⟩ := step_block hstep
  · exact inv_reset
  · exact e.inv h

/-- Settles O58. -/
theorem resetStateMeetsTheBlockInvariant : Obligations.ResetStateMeetsTheBlockInvariant := inv_reset

/-- Settles O2: the fields of `State.reset`, and the line of an idle block is low (R28). -/
theorem resetStateHoldsTheTableOfR32 : Obligations.ResetStateHoldsTheTableOfR32 :=
  ⟨rfl, rfl, rfl, rfl, rfl, rfl, rfl, rfl, rfl, rfl⟩

/-! ## What an instruction does, by its layer: command, wire frame, line symbol -/

/-- What a command does to an idle block (R100 to R104, R116, R118, R146); none for the rows of the other layers. -/
def commandEffect : Instr → Option (Block → Block)
  | .nop => some id
  | .setCounter v => some (·.setCounter v)
  | .setControl v => some (·.setControl v)
  | .setRolling v => some (·.setRolling v)
  | .setAddress v => some (·.setAddress v)
  | .serialize => some (·.serializeFrame)
  | .deserialize p => some (·.decodePayload (Buf.ofVec p))
  | .transmit => some (·.startTransmission)
  | _ => none

/-- Every instruction is a command, a wire frame or a line symbol, and `exec` is that layer's operation. -/
theorem exec_eq_layer (i : Instr) (s : State) :
    (∃ f, commandEffect i = some f ∧ exec i s = s.command f) ∨
    (∃ F k, i.wireFields = some (F, k) ∧ exec i s = s.takeFrame F) ∨
    (∃ x : Symbol, i = x.instr ∧ exec i s = s.symbol x) := by
  cases i with
  | nop | setCounter | setControl | setRolling | setAddress | serialize | deserialize | transmit =>
    exact .inl ⟨_, rfl, rfl⟩
  | ctrlMy | ctrlUp | ctrlMyUp | ctrlDown | ctrlMyDown | ctrlUpDown | ctrlProgram | ctrlSunFlag | ctrlFlag
  | ctrlReserved0 | ctrlReserved7 | ctrlReserved11 | ctrlReserved12 | ctrlReserved13 | ctrlReserved14
  | ctrlReserved15 => exact .inr (.inl ⟨_, _, rfl, rfl⟩)
  | symWake => exact .inr (.inr ⟨.wake, rfl, rfl⟩)
  | symHw => exact .inr (.inr ⟨.hw, rfl, rfl⟩)
  | symSw => exact .inr (.inr ⟨.sw, rfl, rfl⟩)
  | symBit1 => exact .inr (.inr ⟨.bit1, rfl, rfl⟩)
  | symBit0 => exact .inr (.inr ⟨.bit0, rfl, rfl⟩)
  | symGap => exact .inr (.inr ⟨.gap, rfl, rfl⟩)

/-- The inversion lemma of `exec` that keeps the instruction: a tick, its command's effect on an idle block, or a
wire frame's actions. -/
theorem exec_next_cases {i : Instr} {s t : State} (h : exec i s = .next t) :
    t = s.tick ∨
    (∃ f, commandEffect i = some f ∧ s.block.busy = false ∧ t = s.withBlock (f s.block)) ∨
    (∃ F k, i.wireFields = some (F, k) ∧ t = s.withScript (wireFrameScript F ++ s.host.script)) := by
  obtain ⟨f, hf, e⟩ | ⟨F, k, hw, e⟩ | ⟨x, -, e⟩ := exec_eq_layer i s
  · cases hb : s.block.busy with
    | false =>
      rw [e, command_idle f hb] at h; cases h
      exact .inr (.inl ⟨f, hf, rfl, rfl⟩)
    | true =>
      rw [e, command_busy f hb] at h; cases h
      exact .inl rfl
  · rw [e] at h; cases h
    exact .inr (.inr ⟨F, k, hw, rfl⟩)
  · rw [e, symbol_eq_tick] at h; cases h
    exact .inl rfl

/-! ## Who writes which register (R22 to R26) -/

/-- A tick step writes the sequencer and nothing else (R147). -/
theorem tick_frame (b : Block) :
    b.tick.fr = b.fr ∧ b.tick.pb = b.pb ∧ b.tick.df = b.df ∧ b.tick.dv = b.dv ∧ b.tick.ce = b.ce := by
  obtain ⟨-, e⟩ | ⟨-, -, e⟩ | ⟨-, -, -, e⟩ | ⟨-, -, -, e⟩ := tick_cases b <;> rw [e] <;>
    exact ⟨rfl, rfl, rfl, rfl, rfl⟩

theorem commandEffect_keeps_decode_registers {i : Instr} {f : Block → Block} (b : Block)
    (hf : commandEffect i = some f) (hi : ∀ p, i ≠ .deserialize p) :
    (f b).df = b.df ∧ (f b).dv = b.dv ∧ (f b).ce = b.ce := by
  cases i with
  | deserialize p => exact absurd rfl (hi p)
  | _ => cases hf <;> exact ⟨rfl, rfl, rfl⟩

theorem exec_keeps_decode_registers {i : Instr} {s t : State} (h : exec i s = .next t)
    (hi : ∀ p, i ≠ .deserialize p) :
    t.block.df = s.block.df ∧ t.block.dv = s.block.dv ∧ t.block.ce = s.block.ce := by
  obtain rfl | ⟨f, hf, -, rfl⟩ | ⟨F, k, -, rfl⟩ := exec_next_cases h
  · obtain ⟨-, -, hdf, hdv, hce⟩ := tick_frame s.block
    exact ⟨hdf, hdv, hce⟩
  · exact commandEffect_keeps_decode_registers s.block hf hi
  · exact ⟨rfl, rfl, rfl⟩

/-- Settles O54: every other instruction keeps all three registers, and both outcomes of DESERIALIZE set the flags
to opposite values. -/
theorem onlyDeserializeWritesTheDecodeRegisters : Obligations.OnlyDeserializeWritesTheDecodeRegisters := by
  refine ⟨fun i s t h hne => ?_, fun p s t idle h => ?_⟩
  · by_contra hi
    obtain ⟨hdf, hdv, hce⟩ := exec_keeps_decode_registers h (not_exists.mp hi)
    simp [hdf, hdv, hce] at hne
  · have e : exec (.deserialize p) s = .next (s.withBlock (s.block.decodePayload (Buf.ofVec p))) :=
      command_idle (·.decodePayload (Buf.ofVec p)) idle
    rw [e] at h; cases h
    obtain ⟨-, -, -, -, -, hce⟩ := decodePayload_frame s.block (Buf.ofVec p)
    exact hce

/-- From block `b` to block `c`, `FR`, `PB` and `BUSY` change only as R22, R23 and R26 let instruction `i` write
them: the block's side of `Obligations.WhoWritesFrameAndPayload`. -/
structure WritesOnlyItsOwn (i : Instr) (b c : Block) : Prop where
  counter : c.fr.counter ≠ b.fr.counter → ∃ v, i = .setCounter v
  control : c.fr.control ≠ b.fr.control → ∃ v, i = .setControl v
  rolling : c.fr.rolling ≠ b.fr.rolling → ∃ v, i = .setRolling v
  address : c.fr.address ≠ b.fr.address → ∃ v, i = .setAddress v
  payload : c.pb ≠ b.pb → i = .serialize ∨ i = .transmit
  busy : b.busy = false → c.busy = true → i = .transmit

/-- A block whose frame and payload stay, and which does not become busy, meets it for every instruction. -/
theorem WritesOnlyItsOwn.of_unchanged {i : Instr} {b c : Block} (hfr : c.fr = b.fr) (hpb : c.pb = b.pb)
    (hbusy : b.busy = false → c.busy = false) : WritesOnlyItsOwn i b c := by
  constructor <;> simp +contextual [hfr, hpb, hbusy]

theorem WritesOnlyItsOwn.of_commandEffect {i : Instr} {f : Block → Block} (b : Block)
    (hf : commandEffect i = some f) : WritesOnlyItsOwn i b (f b) := by
  cases i with
  | deserialize p =>
    cases hf
    obtain ⟨hfr, hpb, hbusy, -⟩ := decodePayload_frame b (Buf.ofVec p)
    exact .of_unchanged hfr hpb hbusy.trans
  | _ => cases hf <;> constructor <;> simp

theorem WritesOnlyItsOwn.of_exec {i : Instr} {s t : State} (h : exec i s = .next t) :
    WritesOnlyItsOwn i s.block t.block := by
  obtain rfl | ⟨f, hf, -, rfl⟩ | ⟨F, k, -, rfl⟩ := exec_next_cases h
  · obtain ⟨hfr, hpb, -⟩ := tick_frame s.block
    exact .of_unchanged hfr hpb fun hb => by rw [tick_block, tick_idle hb, hb]
  · exact .of_commandEffect s.block hf
  · exact .of_unchanged rfl rfl id

/-- An instruction other than a wire frame leaves the host as it is, and a wire frame the block. -/
theorem exec_host {i : Instr} {s t : State} (h : exec i s = .next t) :
    t.host = s.host ∨
    (i.wireFields.isSome ∧ t.block = s.block ∧ ∃ script, t.host = { s.host with script }) := by
  obtain rfl | ⟨f, -, -, rfl⟩ | ⟨F, k, hw, rfl⟩ := exec_next_cases h
  · exact .inl rfl
  · exact .inl rfl
  · exact .inr ⟨by rw [hw]; rfl, rfl, _, rfl⟩

/-- Settles O55: the block's registers command by command, and the host, which only a wire frame's actions touch. -/
theorem whoWritesFrameAndPayload : Obligations.WhoWritesFrameAndPayload := by
  intro i s t h
  obtain ⟨hcounter, hcontrol, hrolling, haddress, hpb, hbusy⟩ := WritesOnlyItsOwn.of_exec h
  refine ⟨hcounter, hcontrol, hrolling, haddress, hpb, hbusy, ?_⟩
  obtain e | ⟨hw, hblock, script, e⟩ := exec_host h
  · simp [e]
  · simp [e, hw, hblock]

end Sys2Proof.Machine

/-! Proofs of the statements about storage and wire order (`20_memory.md`). First where a buffer's bits stand in its
vector and on the wire; then the statements. -/

namespace Sys2Proof

/-! ## Wire order (R9, R54) -/

/-- Byte `i` of a buffer stands in its vector with `6 - i` bytes below it (R9). -/
theorem vec_bit_of_byte (P : Buf) {i j : Nat} (hi : i < 7) (hj : j < 8) :
    P.vec.getLsbD (8 * (6 - i) + j) = (P.byte i).getLsbD j := by
  rw [vec_bit]
  interval_cases i <;> simp (disch := omega) [Buf.byte, if_pos, if_neg]

/-- The bits in the order sent are the vector's, most significant first (R54). -/
theorem wbit_eq_vec_bit (P : Buf) {n : Nat} (hn : n < 56) : wbit P n = P.vec.getLsbD (55 - n) := by
  have place : 55 - n = 8 * (6 - n / 8) + (7 - n % 8) := by omega
  rw [place, vec_bit_of_byte P (by omega) (by omega), wbit]

/-- The first four bits sent are the high nibble of byte 0. -/
theorem wbit_eq_hiNibble_b0_bit (P : Buf) {n : Nat} (hn : n < 4) :
    wbit P n = (hiNibble P.b0).getLsbD (3 - n) := by
  rw [hiNibble_bit _ (by omega)]
  interval_cases n <;> rfl

/-- Obfuscation leaves byte 0 as the layout has it, its high nibble the constant of R73. -/
theorem serialize_b0_hi (F : Frame) : hiNibble (serialize F).b0 = 0xA#4 := layout_b0_hi F 0#4

end Sys2Proof

namespace Sys2Proof.Machine

/-- Settles O24: the place of each wire bit in the vector, and the first four spell the constant nibble 0xA. -/
theorem wireOrderIsMostSignificantFirst : Obligations.WireOrderIsMostSignificantFirst := by
  refine ⟨fun P n hn => wbit_eq_vec_bit P hn, fun F => ?_⟩
  have first {n : Nat} (hn : n < 4) : wbit (serialize F) n = (0xA#4).getLsbD (3 - n) := by
    rw [wbit_eq_hiNibble_b0_bit _ hn, serialize_b0_hi]
  exact ⟨first (by decide), first (by decide), first (by decide), first (by decide)⟩

/-! ## The frame in flight (R62, R206) -/

/-- At a busy block a step without reset does nothing or is the tick step: no command is accepted (R206). -/
theorem BlockStep.of_busy {b c : Block} (e : BlockStep b c) (busy : b.busy = true) : c = b ∨ c = b.tick := by
  cases e with
  | host => exact .inl rfl
  | tick => exact .inr rfl
  | command idle => simp [busy] at idle

/-- Settles O53: a step of a busy block that is no reset is at most a tick, and a tick writes the sequencer only. -/
theorem nothingChangesTheFrameInFlight : Obligations.NothingChangesTheFrameInFlight := by
  intro s t busy noReset hstep
  obtain ⟨reset, -⟩ | ⟨-, e⟩ := step_block hstep
  · simp [noReset] at reset
  · obtain same | tick := e.of_busy busy
    · simp [same]
    · rw [tick]; exact tick_frame s.block

end Sys2Proof.Machine

/-! Proofs of the statements about the encoding (`30_encoding.md`). First the words' fields and the layout of a plain
buffer, each read back from the other; then the three layers of the decoder, the symbols of a transmission and the
commands of a wire frame; then the statements. -/

namespace Sys2Proof

/-! ## Fields of a command word (R70, R72) -/

@[simp] theorem commandWord_cmdOp_cmdArg (w : BitVec 59) : commandWord (cmdOp w) (cmdArg w) = w :=
  (BitVec.extractLsb'_append_extractLsb'_eq_extractLsb' (x := w) (start₁ := 0) rfl).trans BitVec.extractLsb'_eq_self

theorem operandS_cmdArg (w : BitVec 59) : operandS (cmdArg w) = w.extractLsb' 0 32 :=
  BitVec.extractLsb'_extractLsb'_of_le (by decide)

/-- Every value of the opcode field (R71). -/
theorem opcode_cases (op : BitVec 3) :
    op = 0#3 ∨ op = 1#3 ∨ op = 2#3 ∨ op = 3#3 ∨ op = 4#3 ∨ op = 5#3 ∨ op = 6#3 ∨ op = 7#3 := by
  revert op; decide

/-! ## Buffers and their vectors (R9, R118) -/

theorem vec_byte (P : Buf) {i : Nat} (hi : i < 7) : P.vec.extractLsb' (8 * (6 - i)) 8 = P.byte i := by
  apply BitVec.eq_of_getLsbD_eq
  intro j hj
  rw [BitVec.getLsbD_extractLsb', vec_bit_of_byte P hi hj, decide_eq_true hj, Bool.true_and]

@[simp] theorem ofVec_vec (P : Buf) : Buf.ofVec P.vec = P := by
  apply Buf.ext
  · exact vec_byte P (i := 0) (by decide)
  · exact vec_byte P (i := 1) (by decide)
  · exact vec_byte P (i := 2) (by decide)
  · exact vec_byte P (i := 3) (by decide)
  · exact vec_byte P (i := 4) (by decide)
  · exact vec_byte P (i := 5) (by decide)
  · exact vec_byte P (i := 6) (by decide)

@[simp] theorem vec_ofVec (p : BitVec 56) : (Buf.ofVec p).vec = p := by
  simp only [Buf.vec, Buf.ofVec, BitVec.extractLsb'_append_extractLsb'_eq_extractLsb']
  exact BitVec.extractLsb'_eq_self

/-! ## The layout of a plain buffer and its extraction (R73, R74) -/

theorem hiNibble_append_loNibble (b : Byte) : hiNibble b ++ loNibble b = b :=
  (BitVec.extractLsb'_append_extractLsb'_eq_extractLsb' (x := b) (start₁ := 0) rfl).trans BitVec.extractLsb'_eq_self

theorem layout_b0 (F : Frame) (k : Nibble) : (layout F k).b0 = 0xA#4 ++ F.counter := by
  rw [← hiNibble_append_loNibble (layout F k).b0, layout_b0_hi, layout_b0_lo]

theorem layout_b1 (F : Frame) (k : Nibble) : (layout F k).b1 = F.control ++ k := by
  rw [← hiNibble_append_loNibble (layout F k).b1, layout_b1_hi, layout_b1_lo]

theorem layout_rolling (F : Frame) (k : Nibble) : (layout F k).b2 ++ (layout F k).b3 = F.rolling :=
  (BitVec.extractLsb'_append_extractLsb'_eq_extractLsb' rfl).trans BitVec.extractLsb'_eq_self

theorem layout_address (F : Frame) (k : Nibble) :
    (layout F k).b6 ++ (layout F k).b5 ++ (layout F k).b4 = F.address := by
  have high : (layout F k).b6 ++ (layout F k).b5 = F.address.extractLsb' 8 16 :=
    BitVec.extractLsb'_append_extractLsb'_eq_extractLsb' rfl
  rw [high]
  exact (BitVec.extractLsb'_append_extractLsb'_eq_extractLsb' rfl).trans BitVec.extractLsb'_eq_self

/-- The fields come back from the layout, whatever the checksum nibble. -/
@[simp] theorem extract_layout (F : Frame) (k : Nibble) : extract (layout F k) = F := by
  simp only [extract, layout_b0_lo, layout_b1_hi, layout_rolling, layout_address]

/-- A buffer with the constant nibble is the layout of its fields and its checksum nibble. -/
theorem layout_extract {B : Buf} (h : hiNibble B.b0 = 0xA#4) : layout (extract B) (loNibble B.b1) = B := by
  apply Buf.ext
  · rw [layout_b0, ← h]; exact hiNibble_append_loNibble B.b0
  · rw [layout_b1]; exact hiNibble_append_loNibble B.b1
  · exact BitVec.extractLsb'_append_eq_left
  · exact BitVec.extractLsb'_append_eq_right
  · exact BitVec.extractLsb'_append_eq_right
  · exact (BitVec.extractLsb'_append_eq_of_le (xhi := B.b6 ++ B.b5) (start := 8) le_rfl).trans
      BitVec.extractLsb'_append_eq_right
  · exact (BitVec.extractLsb'_append_eq_of_le (xhi := B.b6 ++ B.b5) (start := 16) (by decide)).trans
      BitVec.extractLsb'_append_eq_left

@[simp] theorem deobfuscate_obfuscate (B : Buf) : deobfuscate (obfuscate B) = B := by
  simp [deobfuscate, obfuscate]

/-! ## The decoder's layers (R71, R77, R79, R81) -/

@[simp] theorem wireFields_ctrlInstr (F : Frame) (k : Nibble) : (ctrlInstr F k).wireFields = some (F, k) := by
  obtain ⟨c, ⟨⟨n, hn⟩⟩, r, a⟩ := F
  interval_cases n <;> rfl

theorem encode_of_wireFields {i : Instr} {F : Frame} {k : Nibble} (h : i.wireFields = some (F, k)) :
    encode i = .plain (layout F k).vec := by
  cases i <;> cases h <;> rfl

theorem extract_nibble (w : BitVec 56) {n m : Nat} (h : m + 4 ≤ 8) :
    (w.extractLsb' n 8).extractLsb' m 4 = w.extractLsb' (n + m) 4 := by
  apply BitVec.eq_of_getLsbD_eq
  intro i hi
  simp [hi, Nat.add_assoc, show m + i < 8 by omega]

/-- The decoder reads the fields off the vector where extraction finds them in the bytes (R9, R74). -/
theorem plainFields_eq_extract (w : BitVec 56) : plainFields w = extract (Buf.ofVec w) := by
  apply Frame.ext
  · exact (extract_nibble w (m := 0) (by decide)).symm
  · exact (extract_nibble w (m := 4) (by decide)).symm
  · exact (BitVec.extractLsb'_append_extractLsb'_eq_extractLsb' (x := w) (len₁ := 8) (len₂ := 8) rfl).symm
  · rfl

/-- Which 56-bit words decode, and to what. -/
theorem decode_plain_eq_ok {w : BitVec 56} {i : Instr} : decode (.plain w) = .ok i ↔
    w.extractLsb' 52 4 = 0xA#4 ∧ i = ctrlInstr (extract (Buf.ofVec w)) (loNibble (Buf.ofVec w).b1) := by
  have nibble : w.extractLsb' 40 4 = loNibble (Buf.ofVec w).b1 :=
    (extract_nibble w (m := 0) (by decide)).symm
  rw [decode, decodePlain, plainFields_eq_extract, nibble]
  split
  · simp [*, eq_comm]
  · simp [*]

theorem decode_layout (F : Frame) (k : Nibble) : decode (.plain (layout F k).vec) = .ok (ctrlInstr F k) := by
  rw [decode_plain_eq_ok, vec_nibble0, layout_b0_hi, ofVec_vec, extract_layout, layout_b1_lo]
  exact ⟨rfl, rfl⟩

theorem decode_segments (x : Symbol) : decode (.pulses x.segments) = .ok x.instr := by
  cases x <;> rfl

/-- The operand bits that survive decoding: all of DESERIALIZE's, the low 32 of a SET command's, none of the others'
(R72). -/
def keptArg (op : BitVec 3) (arg : BitVec 56) : BitVec 56 :=
  if op = 6#3 then arg
  else if op = 0#3 ∨ op = 5#3 ∨ op = 7#3 then 0#56
  else argS (operandS arg)

/-- Encoding a decoded command writes its opcode and the operand bits that are not ignored. -/
theorem encode_decodeCommand (op : BitVec 3) (arg : BitVec 56) :
    encode (decodeCommand (commandWord op arg)) = .command (commandWord op (keptArg op arg)) := by
  obtain rfl | rfl | rfl | rfl | rfl | rfl | rfl | rfl := opcode_cases op <;>
    simp [decodeCommand, encode, keptArg]

/-- Under every opcode but DESERIALIZE's, arguments with the same low 32 bits decode alike (R72). -/
theorem decodeCommand_congr {op : BitVec 3} {a b : BitVec 56} (hop : op ≠ 6#3) (h : operandS a = operandS b) :
    decodeCommand (commandWord op a) = decodeCommand (commandWord op b) := by
  obtain rfl | rfl | rfl | rfl | rfl | rfl | rfl | rfl := opcode_cases op <;> simp [decodeCommand, h] at hop ⊢

/-! ## The string of symbols as segments (R81, R82, R142) -/

/-- A list over `m * k` numbers, cut into `m` blocks of `k`. -/
theorem map_range_mul {α : Type} (f : Nat → α) (m k : Nat) :
    (List.range (m * k)).map f = ((List.range m).map fun i => (List.range k).map fun j => f (i * k + j)).flatten := by
  induction m with
  | zero => simp
  | succ m ih => simp [Nat.succ_mul, List.range_add, List.range_succ, ih, Function.comp_def]

/-- The segments of a string of symbols, in order. -/
def lineSegments (l : List Symbol) : List Segment := (l.map Symbol.segments).flatten

@[simp] theorem lineSegments_append (l m : List Symbol) :
    lineSegments (l ++ m) = lineSegments l ++ lineSegments m := by
  simp [lineSegments]

theorem lineSegments_hw (n : Nat) :
    lineSegments (List.replicate n .hw) = (List.range (n * 2)).map fun j => ⟨j % 2 == 0, tHw⟩ := by
  have pulse : ((List.range 2).map fun j => (⟨j % 2 == 0, tHw⟩ : Segment)) = Symbol.hw.segments := rfl
  simp [map_range_mul, pulse, lineSegments, List.map_const']

theorem lineSegments_payloadSymbols (P : Buf) :
    lineSegments (payloadSymbols P) = (List.range 112).map (payloadSegment P) := by
  have pair (i : Nat) :
      ((List.range 2).map fun j => payloadSegment P (i * 2 + j)) = (bitSymbol (wbit P i)).segments := by
    simp [bitSymbol_segments, List.range_succ, payloadSegment, tHalf, show (i * 2 + 1) / 2 = i by omega]
  rw [show 112 = 56 * 2 from rfl, map_range_mul]
  simp [pair, lineSegments, payloadSymbols, nBits, Function.comp_def]

/-- A frame of the string is a frame of the table: `n` hardware syncs are its first `2 n` rows. -/
theorem lineSegments_frameSymbols (P : Buf) (n : Nat) :
    lineSegments (frameSymbols P n) = (List.range (n * 2 + 115)).map (frameSegment P (n * 2)) := by
  have hw : (List.range (n * 2)).map (frameSegment P (n * 2)) = lineSegments (List.replicate n .hw) := by
    rw [lineSegments_hw]
    exact List.map_congr_left fun j hj => by rw [frameSegment, if_pos (List.mem_range.mp hj)]
  have payload : (List.range 112).map (fun j => frameSegment P (n * 2) (n * 2 + (2 + j))) =
      lineSegments (payloadSymbols P) := by
    rw [lineSegments_payloadSymbols]
    refine List.map_congr_left fun j hj => ?_
    have := List.mem_range.mp hj
    simp (disch := omega) only [frameSegment, if_neg, if_pos]
    congr 1; omega
  rw [show n * 2 + 115 = n * 2 + (2 + (112 + 1)) by omega, List.range_add, List.range_add, List.range_add]
  simp only [List.map_append, List.map_map, Function.comp_def, hw, payload]
  simp [frameSymbols, lineSegments, frameSegment, List.range_succ, Symbol.segments]

/-- The frames after the first are five times the same 127 rows (R142). -/
theorem lineSegments_repeats (P : Buf) :
    lineSegments (List.replicate nRepeats (frameSymbols P nHwRepeat)).flatten =
      (List.range 635).map fun s => frameSegment P 12 (s % 127) := by
  have frame : lineSegments (frameSymbols P nHwRepeat) =
      (List.range 127).map fun j => frameSegment P 12 (j % 127) := by
    rw [nHwRepeat, lineSegments_frameSymbols]
    exact List.map_congr_left fun j hj => by rw [Nat.mod_eq_of_lt (List.mem_range.mp hj)]
  rw [show 635 = 5 * 127 from rfl, map_range_mul]
  simp [← frame, lineSegments, nRepeats, List.map_const']

/-- The table is the wakeup's two rows, the first frame's 119, and the other frames' 635 (R142). -/
theorem lineSegments_transmissionSymbols (P : Buf) : lineSegments (transmissionSymbols P) = segments P := by
  have first : (List.range 119).map (fun j => segAt P (2 + j)) = lineSegments (frameSymbols P nHwFirst) := by
    rw [nHwFirst, lineSegments_frameSymbols]
    refine List.map_congr_left fun j hj => ?_
    have := List.mem_range.mp hj
    simp (disch := omega) only [segAt, if_neg, if_pos, Nat.add_sub_cancel_left]
  have repeats : (List.range 635).map (fun j => segAt P (2 + (119 + j))) =
      lineSegments (List.replicate nRepeats (frameSymbols P nHwRepeat)).flatten := by
    rw [lineSegments_repeats]
    refine List.map_congr_left fun j hj => ?_
    have := List.mem_range.mp hj
    simp (disch := omega) only [segAt, if_neg, if_pos, show 2 + (119 + j) - 121 = j by omega]
  rw [segments, show nSegments = 2 + (119 + 635) from rfl, List.range_add, List.range_add]
  simp only [List.map_append, List.map_map, Function.comp_def, first, repeats, transmissionSymbols,
    lineSegments_append]
  rfl

end Sys2Proof

namespace Sys2Proof.Machine

/-! ## Symbols on the line (R81, R147) -/

theorem exec_symbol (x : Symbol) (s : State) : exec x.instr s = .next s.tick := by
  rw [← symbol_eq_tick s x]; cases x <;> rfl

theorem tx_busy {b : Block} (h : b.busy = true) : b.tx = (segAt b.pb b.seg.toNat).level := by
  rw [Block.tx, if_pos h]

theorem runsOnLine {s : State} (busy : s.block.busy = true) (x : Symbol) : RunsOnLine x.instr x x.segments s := by
  intro k g hx hg
  obtain rfl : segAt s.block.pb s.block.seg.toNat = g := Option.some.inj ((symbolAt_segment hx).symm.trans hg)
  have seg_succ : s.block.seg + 1#10 = BitVec.ofNat 10 (s.block.seg.toNat + 1) := by bv_omega
  have last (hr : s.block.rem = 1#16) : ¬1 < s.block.rem.toNat := by simp [hr]
  rw [exec_symbol]
  refine ⟨tx_busy busy, fun hr => ?_, fun hr h hh => ?_, fun hr _ hs => ?_, fun hr _ hs => ?_⟩
  · have rem_pred : s.block.rem - 1#16 = BitVec.ofNat 16 (s.block.rem.toNat - 1) := by bv_omega
    rw [State.tick, tick_count busy hr, rem_pred]; rfl
  · obtain ⟨hnext, hs⟩ := symbolAt_next hx hh
    obtain rfl : segAt s.block.pb (s.block.seg.toNat + 1) = h :=
      Option.some.inj ((symbolAt_segment hnext).symm.trans hh)
    rw [State.tick, tick_advance busy (last hr) hs, seg_succ]; rfl
  · rw [State.tick, tick_advance busy (last hr) hs, seg_succ]; rfl
  · rw [State.tick, tick_stop busy (last hr) (by omega)]; rfl

/-! ## Commands one after another on an idle block (R12, R85, R206) -/

theorem exec_of_commandEffect {i : Instr} {f : Block → Block} (hf : commandEffect i = some f) (s : State) :
    exec i s = s.command f := by
  cases i with
  | nop | setCounter | setControl | setRolling | setAddress | serialize | deserialize | transmit => cases hf; rfl
  | _ => cases hf

/-- A command other than TRANSMIT: on an idle block it is accepted, and so is the one after it. -/
def StaysIdle (i : Instr) : Prop := i ≠ .transmit ∧ (commandEffect i).isSome

/-- What an accepted command makes of an idle block; the rows of the other layers make nothing of it here. -/
def Block.accept (b : Block) (i : Instr) : Block := (commandEffect i).getD id b

@[simp] theorem accept_setCounter (b : Block) (v : BitVec 32) : b.accept (.setCounter v) = b.setCounter v := rfl
@[simp] theorem accept_setControl (b : Block) (v : BitVec 32) : b.accept (.setControl v) = b.setControl v := rfl
@[simp] theorem accept_setRolling (b : Block) (v : BitVec 32) : b.accept (.setRolling v) = b.setRolling v := rfl
@[simp] theorem accept_setAddress (b : Block) (v : BitVec 32) : b.accept (.setAddress v) = b.setAddress v := rfl
@[simp] theorem accept_serialize (b : Block) : b.accept .serialize = b.serializeFrame := rfl

theorem exec_accept {i : Instr} {s : State} (hi : StaysIdle i) (idle : s.block.busy = false) :
    exec i s = .next (s.withBlock (s.block.accept i)) := by
  obtain ⟨f, hf⟩ := Option.isSome_iff_exists.mp hi.2
  rw [exec_of_commandEffect hf, command_idle f idle, Block.accept, hf, Option.getD_some]

theorem accept_busy {b : Block} {i : Instr} (hi : StaysIdle i) (idle : b.busy = false) :
    (b.accept i).busy = false := by
  obtain ⟨f, hf⟩ := Option.isSome_iff_exists.mp hi.2
  rw [Block.accept, hf, Option.getD_some, ← Bool.not_eq_true]
  exact fun busy => hi.1 ((WritesOnlyItsOwn.of_commandEffect b hf).busy idle busy)

/-- Instructions in sequence, none of which starts a transmission. -/
theorem execAll_accept {l : List Instr} {s : State} (hl : ∀ i ∈ l, StaysIdle i) (idle : s.block.busy = false) :
    s.execAll l = .next (s.withBlock (l.foldl Block.accept s.block)) := by
  induction l generalizing s with
  | nil => rfl
  | cons i l ih =>
    obtain ⟨hi, hl⟩ := List.forall_mem_cons.mp hl
    rw [execAll_cons l (exec_accept hi idle)]
    exact ih hl (accept_busy hi idle)

/-- A presented command at an idle block is decoded and executed (R205). -/
theorem step_present {s : State} {w : BitVec 59} {rest : List HostAction} (noReset : s.rst = false)
    (idle : s.block.busy = false) (hc : s.host.call = none) (hs : s.host.script = .present w :: rest) :
    step s = exec (decodeCommand w) (s.elapse.withScript rest) := by
  rw [step_act noReset hc hs]
  exact hold_idle (s := s.elapse) idle

/-- Presented commands, none of which starts a transmission, take a step each. -/
theorem run_present {l : List (BitVec 59)} {s : State} {rest : List HostAction}
    (hl : ∀ i ∈ l.map decodeCommand, StaysIdle i) (idle : s.block.busy = false) (hc : s.host.call = none)
    (hr : s.NoResetFor l.length) (hs : s.host.script = l.map .present ++ rest) :
    Host.Core.run core l.length s = .next ⟨(l.map decodeCommand).foldl Block.accept s.block,
      { s.host with script := rest, resets := laterResets l.length s.host.resets }⟩ := by
  induction l generalizing s with
  | nil =>
    obtain rfl : s.host.script = rest := hs
    rw [List.length_nil, laterResets_zero]
    rfl
  | cons w l ih =>
    obtain ⟨hw, hl⟩ := List.forall_mem_cons.mp hl
    have accepted := exec_accept (s := s.elapse.withScript (l.map .present ++ rest)) hw idle
    have first := (step_present (noResetFor_rst hr) idle hc hs).trans accepted
    rw [List.length_cons, Nat.add_comm] at hr
    refine ((run_next first).trans (ih hl (accept_busy hw idle) hc (noResetFor_later hr rfl) rfl)).trans ?_
    rw [List.length_cons, Nat.add_comm l.length 1, ← laterResets_add]
    rfl

/-! ## Wire frames -/

theorem exec_of_wireFields {i : Instr} {F : Frame} {k : Nibble} (h : i.wireFields = some (F, k)) (s : State) :
    exec i s = s.takeFrame F := by
  cases i <;> cases h <;> rfl

/-- SET_FRAME of a frame's fields, as instructions, in the order of R85's list. -/
def setInstrs (F : Frame) : List Instr :=
  [.setAddress (F.address.setWidth 32), .setCounter (F.counter.setWidth 32),
    .setControl (F.control.setWidth 32), .setRolling (F.rolling.setWidth 32)]

/-- The words of a wire frame's five commands. -/
def wireFrameWords (F : Frame) : List (BitVec 59) :=
  [setWord 4#3 (F.address.setWidth 32), setWord 1#3 (F.counter.setWidth 32), setWord 2#3 (F.control.setWidth 32),
    setWord 3#3 (F.rolling.setWidth 32), serializeWord]

theorem wireFrameScript_eq (F : Frame) : wireFrameScript F = (wireFrameWords F).map .present := rfl

@[simp] theorem decodeCommand_setCounter (v : BitVec 32) : decodeCommand (setWord 1#3 v) = .setCounter v := by
  simp [setWord, decodeCommand]
@[simp] theorem decodeCommand_setControl (v : BitVec 32) : decodeCommand (setWord 2#3 v) = .setControl v := by
  simp [setWord, decodeCommand]
@[simp] theorem decodeCommand_setRolling (v : BitVec 32) : decodeCommand (setWord 3#3 v) = .setRolling v := by
  simp [setWord, decodeCommand]
@[simp] theorem decodeCommand_setAddress (v : BitVec 32) : decodeCommand (setWord 4#3 v) = .setAddress v := by
  simp [setWord, decodeCommand]
@[simp] theorem decodeCommand_serializeWord : decodeCommand serializeWord = .serialize := by
  simp [serializeWord, decodeCommand]

theorem decodeCommand_wireFrameWords (F : Frame) :
    (wireFrameWords F).map decodeCommand = setInstrs F ++ [Instr.serialize] := by
  simp [wireFrameWords, setInstrs]

theorem setInstrs_staysIdle (F : Frame) : ∀ i ∈ setInstrs F, StaysIdle i := by
  simp only [setInstrs, List.mem_cons, List.not_mem_nil, or_false]
  rintro i (rfl | rfl | rfl | rfl) <;> exact ⟨nofun, rfl⟩

theorem staysIdle_of_perm {F : Frame} {l : List Instr} (h : l.Perm (setInstrs F)) :
    ∀ i ∈ l ++ [.serialize], StaysIdle i := by
  have serialize : StaysIdle .serialize := ⟨nofun, rfl⟩
  exact List.forall_mem_append.mpr
    ⟨fun i hi => setInstrs_staysIdle F i (h.mem_iff.mp hi), List.forall_mem_singleton.mpr serialize⟩

/-- The SET commands of a frame's fields store the frame. -/
theorem accept_setInstrs (F : Frame) (b : Block) : (setInstrs F).foldl Block.accept b = { b with fr := F } := by
  have nibble (x : Nibble) : trunc4 (x.setWidth 32) = x := by
    simp [trunc4, BitVec.extractLsb'_setWidth_of_le]
  have rolling : trunc16 (F.rolling.setWidth 32) = F.rolling := by
    simp [trunc16, BitVec.extractLsb'_setWidth_of_le]
  have address : trunc24 (F.address.setWidth 32) = F.address := by
    simp [trunc24, BitVec.extractLsb'_setWidth_of_le]
  simp [setInstrs, Block.setAddress, Block.setCounter, Block.setControl, Block.setRolling, nibble, rolling, address]

/-- The SET commands of a frame's fields write different fields, so their order does not matter (R105). -/
theorem accept_setInstrs_perm {F : Frame} {l : List Instr} (h : l.Perm (setInstrs F)) (b : Block) :
    l.foldl Block.accept b = { b with fr := F } := by
  have comm : ∀ i ∈ setInstrs F, ∀ j ∈ setInstrs F, ∀ b : Block,
      (b.accept i).accept j = (b.accept j).accept i := by
    simp [setInstrs, Block.setAddress, Block.setCounter, Block.setControl, Block.setRolling]
  rw [← h.symm.foldl_eq' comm, accept_setInstrs]

/-- After taking up a wire frame, five steps store and serialize it. -/
theorem run_takeFrame {s : State} (F : Frame) (idle : s.block.busy = false) (hc : s.host.call = none)
    (hr : s.NoResetFor 5) :
    Host.Core.run core 5 (s.withScript (wireFrameScript F ++ s.host.script)) = .next
      ⟨{ s.block with fr := F, pb := Sys2Proof.serialize F },
        { s.host with resets := laterResets 5 s.host.resets }⟩ := by
  have stays : ∀ i ∈ (wireFrameWords F).map decodeCommand, StaysIdle i := by
    rw [decodeCommand_wireFrameWords]; exact staysIdle_of_perm (.refl _)
  have run := run_present (s := s.withScript (wireFrameScript F ++ s.host.script)) stays idle hc hr
    (congrArg (· ++ s.host.script) (wireFrameScript_eq F))
  rw [decodeCommand_wireFrameWords, List.foldl_append, withScript_block, accept_setInstrs] at run
  exact run

theorem setWord_setWidth (op : BitVec 3) {n : Nat} (x : BitVec n) (h : n ≤ 32) :
    setWord op (x.setWidth 32) = op ++ x.setWidth 56 := by
  rw [setWord, argS, BitVec.setWidth_setWidth (by omega)]; rfl

theorem storesAndSerializes {i : Instr} {F : Frame} {k : Nibble} (h : i.wireFields = some (F, k)) (s : State) :
    StoresAndSerializes i F s := by
  refine ⟨_, exec_of_wireFields h s, rfl, rfl, ?_, run_takeFrame F⟩
  simp [wireFrameScript, setFrameScript, setWord_setWidth, serializeWord, commandWord]

/-! ## The statements -/

/-- Settles O43: by layer, a command's opcode and operand, a wire frame's layout, a symbol's segments. -/
theorem decodeEncodeIsTheIdentity : Obligations.DecodeEncodeIsTheIdentity := by
  intro i
  cases i with
  | nop | setCounter | setControl | setRolling | setAddress | serialize | deserialize | transmit =>
    simp [encode, decode, decodeCommand]
  | ctrlMy | ctrlUp | ctrlMyUp | ctrlDown | ctrlMyDown | ctrlUpDown | ctrlProgram | ctrlSunFlag | ctrlFlag
  | ctrlReserved0 | ctrlReserved7 | ctrlReserved11 | ctrlReserved12 | ctrlReserved13 | ctrlReserved14
  | ctrlReserved15 => exact decode_layout _ _
  | symWake => exact decode_segments .wake
  | symHw => exact decode_segments .hw
  | symSw => exact decode_segments .sw
  | symBit1 => exact decode_segments .bit1
  | symBit0 => exact decode_segments .bit0
  | symGap => exact decode_segments .gap

/-- Settles O14: what deobfuscation gives back is the plain buffer, a layout with the computed nibble. -/
theorem serializedFrameHasTheLayoutOfR73 : Obligations.SerializedFrameHasTheLayoutOfR73 := by
  intro F
  have plain : deobfuscate (serialize F) = layout F (frameChecksum F) := by
    rw [serialize, deobfuscate_obfuscate, plainBuffer_eq_layout]
  refine ⟨frameChecksum F, rfl, ?_⟩
  rw [plain]
  exact ⟨layout_b0 F _, layout_b1 F _, layout_rolling F _, layout_address F _⟩

/-- Settles O32: the string's segments are the table's rows, part by part. -/
theorem symbolStringEqualsSegmentTable : Obligations.SymbolStringEqualsSegmentTable := by
  intro P
  refine ⟨lineSegments_transmissionSymbols P, ?_⟩
  simp [transmissionSymbols, frameSymbols, payloadSymbols, nBits, nHwFirst, nHwRepeat, nRepeats]

/-- Settles O40, for all six symbols at once. -/
theorem symbolsRunWhileOnTheLine : Obligations.SymbolsRunWhileOnTheLine := fun _ busy =>
  ⟨runsOnLine busy .wake, runsOnLine busy .hw, runsOnLine busy .sw, runsOnLine busy .bit1, runsOnLine busy .bit0,
    runsOnLine busy .gap⟩

/-- Settles O44: a plain buffer is the layout of its own fields, and a command keeps the operand bits of its
format. -/
theorem encodeDecodeKeepsEveryOperandBit : Obligations.EncodeDecodeKeepsEveryOperandBit := by
  refine ⟨fun w i h => ?_, fun w => ⟨commandWord (cmdOp w) (keptArg (cmdOp w) (cmdArg w)), ?_, ?_, ?_, ?_⟩⟩
  · obtain ⟨hA, rfl⟩ := decode_plain_eq_ok.mp h
    rw [← vec_ofVec w, vec_nibble0] at hA
    rw [encode_of_wireFields (wireFields_ctrlInstr _ _), layout_extract hA, vec_ofVec]
  · rw [← encode_decodeCommand, commandWord_cmdOp_cmdArg]
  · rw [cmdOp_commandWord]
  · intro h
    rw [keptArg, if_pos h, commandWord_cmdOp_cmdArg]
  · intro h
    have kept : keptArg (cmdOp w) (cmdArg w) = argS (operandS (cmdArg w)) := by
      obtain h | h | h | h := h <;> simp [keptArg, h]
    rw [← operandS_cmdArg, ← operandS_cmdArg, cmdArg_commandWord, kept, operandS_argS]

/-- Settles O46: the plain buffer is the layout whose nibble is the computed checksum. -/
theorem plainBuffersDecodeToWellFormedRows : Obligations.PlainBuffersDecodeToWellFormedRows := by
  refine ⟨fun w => ⟨_, rfl⟩, fun w => ⟨fun ⟨i, h⟩ => (decode_plain_eq_ok.mp h).1, fun h => ?_⟩, fun F => ?_⟩
  · exact ⟨_, decode_plain_eq_ok.mpr ⟨h, rfl⟩⟩
  · refine ⟨ctrlInstr F (frameChecksum F), ?_, ?_, wireFields_ctrlInstr F _⟩
    · rw [plainBuffer_eq_layout, decode_layout]
    · simp [Instr.wellFormed, wireFrameOk]

/-- Settles O41, for all sixteen rows at once. -/
theorem wireFramesAreStoredAndSerialized : Obligations.WireFramesAreStoredAndSerialized := fun c k r a s => by
  refine ⟨?_, ?_, ?_, ?_, ?_, ?_, ?_, ?_, ?_, ?_, ?_, ?_, ?_, ?_, ?_, ?_⟩ <;>
    exact storesAndSerializes (k := k) rfl s

/-- Settles O42: both sides store the frame and serialize it. -/
theorem wireFrameIsSetFrameThenSerialize : Obligations.WireFrameIsSetFrameThenSerialize := by
  intro F k s l idle hc hr hl
  refine ⟨_, _, _, exec_of_wireFields (wireFields_ctrlInstr F k) s, run_takeFrame F idle hc hr,
    execAll_accept (staysIdle_of_perm hl) idle, ?_, rfl⟩
  rw [List.foldl_append, accept_setInstrs_perm hl]
  rfl

/-- Settles O45: `op ++ a` is the command word with those two fields. -/
theorem operandFormatsAreThoseOfR72 : Obligations.OperandFormatsAreThoseOfR72 := by
  refine ⟨fun a => ?_, fun a b h op hop => ?_⟩
  · have word (op : BitVec 3) : op ++ a = commandWord op a := rfl
    simp [decode, decodeCommand, Buf.ofVec, word, operandS]
  · exact congrArg Except.ok (decodeCommand_congr hop h)

/-- Settles O47: nine constants. -/
theorem controlCodesAreTheBitPatternsOfR77 : Obligations.ControlCodesAreTheBitPatternsOfR77 := by
  unfold Obligations.ControlCodesAreTheBitPatternsOfR77; decide

/-- Settles O48: six fixed words. -/
theorem writtenOutWordsDecode : Obligations.WrittenOutWordsDecode := by
  unfold Obligations.WrittenOutWordsDecode; decide

/-- Settles O49: a command at an idle block, a wire frame, and the reset step. -/
theorem stepRunsTheDecodedInstruction : Obligations.StepRunsTheDecodedInstruction := by
  intro s rest i
  refine ⟨fun noReset idle hc w hw => ?_, fun noReset idle p w hp hpw hw => ?_, fun noReset hc w hs hw => ?_,
    fun reset => ?_⟩
  · obtain rfl : decodeCommand w = i := Except.ok.inj hw
    refine ⟨step_present noReset idle hc, fun hs => ?_⟩
    rw [step_act noReset hc hs, State.act, if_pos (by simp [Block.cmdReady, idle]), issue_command]
  · obtain rfl : decodeCommand w = i := Except.ok.inj hw
    obtain ⟨hpause, hcommand⟩ := word_some hpw
    rw [step_call noReset hp, sendStep_stage hpause, State.sendStage, hcommand]
    exact hold_idle (s := s.elapse) idle
  · rw [step_act noReset hc hs, State.act, issue_ok hw]
  · refine ⟨_, step_reset reset, rfl, rfl, fun hc w => ⟨fun hs => ?_, fun hs => ?_⟩⟩ <;>
      simp [State.resetStep, HostSide.afterReset, State.portWord, hc, hs]

end Sys2Proof.Machine

/-! Proofs of the statements about the frame-field commands (`40_frame_fields.md`). First the truncations as
numbers; then the ticks of an idle block; then the SET commands in sequence; then the statements about one command. -/

namespace Sys2Proof

/-! ## Truncations as numbers (R10, R72) -/

theorem lowBits_eq_ofNat {w : Nat} (x : BitVec w) (n : Nat) : x.extractLsb' 0 n = BitVec.ofNat n x.toNat := rfl

theorem trunc4_eq_ofNat (v : BitVec 32) : trunc4 v = BitVec.ofNat 4 v.toNat := lowBits_eq_ofNat v 4
theorem trunc16_eq_ofNat (v : BitVec 32) : trunc16 v = BitVec.ofNat 16 v.toNat := lowBits_eq_ofNat v 16
theorem trunc24_eq_ofNat (v : BitVec 32) : trunc24 v = BitVec.ofNat 24 v.toNat := lowBits_eq_ofNat v 24

end Sys2Proof

namespace Sys2Proof.Machine

/-! ## An idle block, and the ticks that pass at it (R100, R147) -/

theorem state_tick_idle {s : State} (idle : s.block.busy = false) : s.tick = s := by
  rw [State.tick, tick_idle idle, withBlock_self]

/-- A `pass` with ticks left lets one of them pass (R177). -/
theorem act_pass_succ (s : State) (rest : List HostAction) (n : Nat) :
    s.act rest (.pass (n + 1)) = .next (s.withScript (.pass n :: rest)).tick := lineTick_eq _

/-- WAIT ends at an idle block (R85). -/
theorem act_wait_idle {s : State} (rest : List HostAction) (idle : s.block.busy = false) :
    s.act rest .wait = .next (s.withScript rest) := by
  rw [State.act, Block.cmdReady, idle]; rfl

/-! ## SET commands one after another on an idle block (R105) -/

theorem execAll_swap {i j : Instr} {s : State} (hi : StaysIdle i) (hj : StaysIdle j)
    (idle : s.block.busy = false) (h : (s.block.accept i).accept j = (s.block.accept j).accept i) :
    s.execAll [i, j] = s.execAll [j, i] := by
  rw [execAll_accept (by simp [hi, hj]) idle, execAll_accept (by simp [hi, hj]) idle]
  simp [h]

theorem execAll_override {i j : Instr} {s : State} (hi : StaysIdle i) (hj : StaysIdle j)
    (idle : s.block.busy = false) (h : (s.block.accept i).accept j = s.block.accept j) :
    s.execAll [i, j] = s.execAll [j] := by
  rw [execAll_accept (by simp [hi, hj]) idle, execAll_accept (by simp [hj]) idle]
  simp [h]

theorem setCounter_staysIdle (v : BitVec 32) : StaysIdle (.setCounter v) := ⟨nofun, rfl⟩
theorem setControl_staysIdle (v : BitVec 32) : StaysIdle (.setControl v) := ⟨nofun, rfl⟩
theorem setRolling_staysIdle (v : BitVec 32) : StaysIdle (.setRolling v) := ⟨nofun, rfl⟩
theorem setAddress_staysIdle (v : BitVec 32) : StaysIdle (.setAddress v) := ⟨nofun, rfl⟩

/-- The four SET commands with any operands, in the order of R101 to R104. -/
def setCommands (c k r a : BitVec 32) : List Instr := [.setCounter c, .setControl k, .setRolling r, .setAddress a]

theorem setCommands_staysIdle (c k r a : BitVec 32) : ∀ i ∈ setCommands c k r a, StaysIdle i := by
  simp [setCommands, setCounter_staysIdle, setControl_staysIdle, setRolling_staysIdle, setAddress_staysIdle]

/-- They write different fields, so any two of them commute. -/
theorem accept_setCommands_comm (c k r a : BitVec 32) :
    ∀ i ∈ setCommands c k r a, ∀ j ∈ setCommands c k r a, ∀ b : Block,
      (b.accept i).accept j = (b.accept j).accept i := by
  simp [setCommands, Block.setCounter, Block.setControl, Block.setRolling, Block.setAddress]

/-- Together they write all of `FR`, and nothing else. -/
theorem accept_setCommands (c k r a : BitVec 32) (b : Block) : (setCommands c k r a).foldl Block.accept b =
    { b with fr := ⟨trunc4 c, trunc4 k, trunc16 r, trunc24 a⟩ } := rfl

/-- Settles O9: any order of the four is a permutation of commuting block updates, and a field write hides the one
before it. -/
theorem setCommandsCommuteAndOverride : Obligations.SetCommandsCommuteAndOverride := by
  intro s c k r a v idle
  have stays := setCommands_staysIdle c k r a
  have comm := accept_setCommands_comm c k r a
  refine ⟨fun l (perm : l.Perm (setCommands c k r a)) => ?_, fun i j sub => ?_, ?_, ?_, ?_, ?_⟩
  · have hl : ∀ i ∈ l, StaysIdle i := fun i hi => stays i (perm.mem_iff.mp hi)
    rw [execAll_accept hl idle, ← perm.symm.foldl_eq' comm, accept_setCommands]
    simp only [trunc4_eq_ofNat, trunc16_eq_ofNat, trunc24_eq_ofNat, State.withBlock]
  · have hi : i ∈ setCommands c k r a := sub.mem List.mem_cons_self
    have hj : j ∈ setCommands c k r a := sub.mem (List.mem_cons_of_mem i List.mem_cons_self)
    exact execAll_swap (stays i hi) (stays j hj) idle (comm i hi j hj s.block)
  · exact execAll_override (setCounter_staysIdle v) (setCounter_staysIdle c) idle rfl
  · exact execAll_override (setControl_staysIdle v) (setControl_staysIdle k) idle rfl
  · exact execAll_override (setRolling_staysIdle v) (setRolling_staysIdle r) idle rfl
  · exact execAll_override (setAddress_staysIdle v) (setAddress_staysIdle a) idle rfl

/-! ## The statements about one command -/

/-- Settles O4: NOP's effect is the identity, and every other step listed is a tick or the end of a WAIT, which leave
an idle block alone. -/
theorem nopWritesNothing : Obligations.NopWritesNothing := by
  refine ⟨fun arg => ?_, fun s idle => ⟨command_idle id idle,
    fun noReset hc => ⟨fun hs => ?_, fun n rest hs => ?_, fun rest hs => ?_⟩, fun noReset p hp pause => ?_,
    elapse_block s, fun l => withScript_block s.elapse l, fun p => withCall_block s.elapse (some p)⟩⟩
  · obtain ⟨nop, -⟩ := operandFormatsAreThoseOfR72.1 arg
    exact nop
  · rw [step_nil noReset hc hs, state_tick_idle]; exact idle
  · rw [step_act noReset hc hs, act_pass_succ, state_tick_idle]; exact idle
  · rw [step_act noReset hc hs, act_wait_idle]; exact idle
  · rw [step_call noReset hp, sendStep_paused pause, state_tick_idle]; exact idle

/-- Settles O5, by the operand format of R72 and the field write's truncation. -/
theorem setCounterStoresItsLowFourBits : Obligations.SetCounterStoresItsLowFourBits := by
  refine ⟨fun arg => ?_, fun v s idle => ?_⟩
  · obtain ⟨-, -, -, counter, -⟩ := operandFormatsAreThoseOfR72.1 arg
    rw [counter, lowBits_eq_ofNat]
  · rw [exec_accept (setCounter_staysIdle v) idle, accept_setCounter, Block.setCounter, trunc4_eq_ofNat]; rfl

/-- Settles O6, by the operand format of R72 and the field write's truncation. -/
theorem setControlStoresItsLowFourBits : Obligations.SetControlStoresItsLowFourBits := by
  refine ⟨fun arg => ?_, fun v s idle => ?_⟩
  · obtain ⟨-, -, -, -, control, -⟩ := operandFormatsAreThoseOfR72.1 arg
    rw [control, lowBits_eq_ofNat]
  · rw [exec_accept (setControl_staysIdle v) idle, accept_setControl, Block.setControl, trunc4_eq_ofNat]; rfl

/-- Settles O7, by the operand format of R72 and the field write's truncation. -/
theorem setRollingStoresItsLowSixteenBits : Obligations.SetRollingStoresItsLowSixteenBits := by
  refine ⟨fun arg => ?_, fun v s idle => ?_⟩
  · obtain ⟨-, -, -, -, -, rolling, -⟩ := operandFormatsAreThoseOfR72.1 arg
    rw [rolling, lowBits_eq_ofNat]
  · rw [exec_accept (setRolling_staysIdle v) idle, accept_setRolling, Block.setRolling, trunc16_eq_ofNat]; rfl

/-- Settles O8, by the operand format of R72 and the field write's truncation. -/
theorem setAddressStoresItsLowTwentyFourBits : Obligations.SetAddressStoresItsLowTwentyFourBits := by
  refine ⟨fun arg => ?_, fun v s idle => ?_⟩
  · obtain ⟨-, -, -, -, -, -, address, -⟩ := operandFormatsAreThoseOfR72.1 arg
    rw [address, lowBits_eq_ofNat]
  · rw [exec_accept (setAddress_staysIdle v) idle, accept_setAddress, Block.setAddress, trunc24_eq_ofNat]; rfl

end Sys2Proof.Machine

/-! Proofs of the statements about the codec (`41_codec.md`). First the checksum's insertion; then the scrambler, byte
by byte and as a linear map; then Deserialize, which sees only the last byte's nibbles, its round trips with
Serialize, and what it detects; then the block's two codec commands; then the statements. -/

namespace Sys2Proof

/-! ## Nibbles of a byte put together (R55) -/

@[simp] theorem hiNibble_append (h l : Nibble) : hiNibble (h ++ l) = h := BitVec.extractLsb'_append_eq_left

@[simp] theorem loNibble_append (h l : Nibble) : loNibble (h ++ l) = l := BitVec.extractLsb'_append_eq_right

/-! ## Inserting the checksum (R110, R111, R115) -/

/-- Serialize's insertion step: the checksum put into the low nibble of byte 1 (R111, R115). -/
def insertChecksum (B : Buf) : Buf := { B with b1 := B.b1 ||| (checksum B).setWidth 8 }

theorem plainBuffer_eq_insertChecksum (F : Frame) : plainBuffer F = insertChecksum (layout F 0#4) := rfl

theorem hiNibble_or_setWidth (x : Byte) (k : Nibble) : hiNibble (x ||| k.setWidth 8) = hiNibble x := by
  have high : hiNibble (k.setWidth 8) = 0#4 := by revert k; decide
  rw [hiNibble, BitVec.extractLsb'_or, ← hiNibble, ← hiNibble, high, BitVec.or_zero]

theorem loNibble_or_setWidth (x : Byte) (k : Nibble) : loNibble (x ||| k.setWidth 8) = loNibble x ||| k := by
  have low : loNibble (k.setWidth 8) = k := by revert k; decide
  rw [loNibble, BitVec.extractLsb'_or, ← loNibble, ← loNibble, low]

/-- Inserted into an empty nibble, the checksum cancels itself. -/
theorem checksum_insertChecksum {B : Buf} (empty : loNibble B.b1 = 0#4) : checksum (insertChecksum B) = 0#4 := by
  have inserted : nibbleSum (insertChecksum B).b1 = nibbleSum B.b1 ^^^ checksum B := by
    simp only [nibbleSum, insertChecksum, hiNibble_or_setWidth, loNibble_or_setWidth, empty, BitVec.zero_or,
      BitVec.xor_zero]
  have total : checksum (insertChecksum B) = checksum B ^^^ checksum B := by
    conv_rhs => lhs; rw [checksum_eq_nibbleSum]
    rw [checksum_eq_nibbleSum, inserted]
    simp only [insertChecksum]
    ac_rfl
  rw [total, BitVec.xor_self]

/-- The nibble it goes into is the one extraction ignores (R74). -/
theorem extract_insertChecksum (B : Buf) : extract (insertChecksum B) = extract B := by
  simp only [extract, insertChecksum, hiNibble_or_setWidth]

/-! ## The scrambler, byte by byte (R112, R113) -/

theorem obfuscate_byte_succ (B : Buf) {i : Nat} (hi : i < 6) :
    (obfuscate B).byte (i + 1) = (obfuscate B).byte i ^^^ B.byte (i + 1) := by
  interval_cases i <;> exact BitVec.xor_comm ..

theorem deobfuscate_byte_succ (P : Buf) {i : Nat} (hi : i < 6) :
    (deobfuscate P).byte (i + 1) = P.byte (i + 1) ^^^ P.byte i := by
  interval_cases i <;> rfl

theorem bytes_getElem (B : Buf) {i : Nat} (hi : i < B.bytes.length) : B.bytes[i] = B.byte i := by
  have : i < 7 := hi
  interval_cases i <;> rfl

/-- Byte `i` of the payload accumulates the plain bytes up to `i`. -/
theorem obfuscate_byte_eq_foldl (B : Buf) {i : Nat} (hi : i < 7) :
    (obfuscate B).byte i = (B.bytes.take (i + 1)).foldl (fun x y => x ^^^ y) 0#8 := by
  induction i with
  | zero => exact BitVec.zero_xor.symm
  | succ i ih =>
    have next : i + 1 < B.bytes.length := hi
    rw [obfuscate_byte_succ B (by omega), ih (by omega), ← List.take_concat_get' _ _ next, List.foldl_append,
      bytes_getElem]
    rfl

/-! ## The scrambler and the checksum as linear maps (R114) -/

@[simp] theorem obfuscate_deobfuscate (P : Buf) : obfuscate (deobfuscate P) = P := by
  simp [obfuscate, deobfuscate]

theorem obfuscate_xor (X Y : Buf) : obfuscate (X.xor Y) = (obfuscate X).xor (obfuscate Y) := by
  apply Buf.ext <;> simp only [obfuscate, Buf.xor] <;> ac_rfl

theorem deobfuscate_xor (X Y : Buf) : deobfuscate (X.xor Y) = (deobfuscate X).xor (deobfuscate Y) := by
  apply Buf.ext <;> simp only [deobfuscate, Buf.xor] <;> ac_rfl

theorem checksum_xor (X Y : Buf) : checksum (X.xor Y) = checksum X ^^^ checksum Y := by
  simp only [checksum_eq_nibbleSum, Buf.xor, nibbleSum_xor]
  ac_rfl

theorem ofVec_xor (p q : BitVec 56) : Buf.ofVec (p ^^^ q) = (Buf.ofVec p).xor (Buf.ofVec q) := by
  simp only [Buf.ofVec, Buf.xor, BitVec.extractLsb'_xor]

/-! ## Deserialize (R117 to R120) -/

/-- Obfuscation piles all plain bytes up in the last one, so a payload's checksum is that byte's nibble sum. -/
theorem checksum_deobfuscate (P : Buf) : checksum (deobfuscate P) = nibbleSum P.b6 := by
  rw [← nibbleSum_obfuscate_b6, obfuscate_deobfuscate]

theorem deserialize_eq_ok {P : Buf} {F : Frame} :
    deserialize P = .ok F ↔ hiNibble P.b6 = loNibble P.b6 ∧ extract (deobfuscate P) = F := by
  rw [deserialize, checksum_deobfuscate, ← nibbleSum_eq_zero]
  split <;> simp [*]

theorem deserialize_eq_error {P : Buf} :
    deserialize P = .error .invalidChecksum ↔ hiNibble P.b6 ≠ loNibble P.b6 := by
  rw [deserialize, checksum_deobfuscate, ne_eq, ← nibbleSum_eq_zero]
  split <;> simp [*]

theorem exists_deserialize_eq_ok {P : Buf} :
    (∃ F, deserialize P = .ok F) ↔ hiNibble P.b6 = loNibble P.b6 := by
  simp [deserialize_eq_ok]

/-- A payload made from a plain buffer whose checksum is zero decodes to that buffer's fields. -/
theorem deserialize_obfuscate {B : Buf} (zero : checksum B = 0#4) : deserialize (obfuscate B) = .ok (extract B) := by
  rw [deserialize, deobfuscate_obfuscate, if_pos zero]

/-! ## Round trips (R121, R122) -/

theorem deserialize_serialize (F : Frame) : deserialize (serialize F) = .ok F := by
  rw [serialize, deserialize_obfuscate (checksum_plainBuffer F), plainBuffer_eq_insertChecksum,
    extract_insertChecksum, extract_layout]

/-- A buffer with the constant nibble and a zero checksum is the plain buffer of its fields. -/
theorem plainBuffer_extract {B : Buf} (mark : hiNibble B.b0 = 0xA#4) (zero : checksum B = 0#4) :
    plainBuffer (extract B) = B := by
  have nibble : frameChecksum (extract B) = loNibble B.b1 := by
    rw [← BitVec.xor_eq_zero_iff, ← checksum_layout, layout_extract mark, zero]
  rw [plainBuffer_eq_layout, nibble, layout_extract mark]

/-- Which payloads Serialize makes, and of which frame. -/
theorem serialize_eq_iff {F : Frame} {P : Buf} :
    serialize F = P ↔ deserialize P = .ok F ∧ hiNibble P.b0 = 0xA#4 := by
  refine ⟨fun h => h ▸ ⟨deserialize_serialize F, serialize_b0_hi F⟩, fun ⟨accepted, mark⟩ => ?_⟩
  obtain ⟨equal, rfl⟩ := deserialize_eq_ok.mp accepted
  have zero : checksum (deobfuscate P) = 0#4 := by rw [checksum_deobfuscate, nibbleSum_eq_zero, equal]
  rw [serialize, plainBuffer_extract (B := deobfuscate P) mark zero, obfuscate_deobfuscate]

/-! ## Another first nibble (R80, R120) -/

/-- A frame's layout with no checksum yet, and `h` for the constant nibble of R73. -/
def markedLayout (h : Nibble) (F : Frame) : Buf := { layout F 0#4 with b0 := h ++ F.counter }

theorem extract_markedLayout (h : Nibble) (F : Frame) : extract (markedLayout h F) = F := by
  conv_rhs => rw [← extract_layout F 0#4]
  simp only [extract, markedLayout, loNibble_append, layout_b0_lo]

/-! ## Errors on the line (R123) -/

theorem deserialize_xor_eq_error {P : Buf} (valid : hiNibble P.b6 = loNibble P.b6) (E : Buf) :
    deserialize (P.xor E) = .error .invalidChecksum ↔ hiNibble E.b6 ≠ loNibble E.b6 := by
  rw [deserialize_eq_error, Buf.xor, hiNibble_xor, loNibble_xor, valid, ne_eq, BitVec.xor_right_inj]

/-- Flipping one wire bit makes the last byte's nibbles differ exactly if the bit is in that byte (R54). -/
theorem wireBit_b6_nibbles_ne : ∀ n < 56,
    (hiNibble (Buf.ofVec (1#56 <<< (55 - n))).b6 ≠ loNibble (Buf.ofVec (1#56 <<< (55 - n))).b6 ↔ 48 ≤ n) := by
  decide

/-! ## The counter in the payload (R124) -/

theorem serialize_b0 (F : Frame) : (serialize F).b0 = 0xA#4 ++ F.counter := layout_b0 F 0#4

/-- With another counter in byte 0 the payload decodes to the frame with that counter: of byte 1, extraction reads
only the high nibble, where byte 0 has its constant. -/
theorem extract_deobfuscate_counter (F : Frame) (c : Nibble) :
    extract (deobfuscate { serialize F with b0 := 0xA#4 ++ c }) = { F with counter := c } := by
  have fields : extract (deobfuscate (serialize F)) = F := (deserialize_eq_ok.mp (deserialize_serialize F)).2
  conv_rhs => rw [← fields]
  simp only [extract, deobfuscate, hiNibble_xor, hiNibble_append, loNibble_append, serialize_b0_hi]

theorem serialize_counter (F : Frame) (c : Nibble) :
    serialize { F with counter := c } = { serialize F with b0 := 0xA#4 ++ c } :=
  serialize_eq_iff.mpr
    ⟨deserialize_eq_ok.mpr ⟨serialize_b6_nibbles F, extract_deobfuscate_counter F c⟩, hiNibble_append _ c⟩

end Sys2Proof

namespace Sys2Proof.Machine

/-! ## SERIALIZE and DESERIALIZE on an idle block (R116, R118) -/

theorem serialize_staysIdle : StaysIdle .serialize := ⟨nofun, rfl⟩
theorem deserialize_staysIdle (p : BitVec 56) : StaysIdle (.deserialize p) := ⟨nofun, rfl⟩

@[simp] theorem accept_deserialize (b : Block) (p : BitVec 56) :
    b.accept (.deserialize p) = b.decodePayload (Buf.ofVec p) := rfl

theorem tx_idle {b : Block} (h : b.busy = false) : b.tx = false := by simp [Block.tx, h]

theorem exec_deserialize_ok {p : BitVec 56} {s : State} {F : Frame} (idle : s.block.busy = false)
    (h : Sys2Proof.deserialize (Buf.ofVec p) = .ok F) :
    exec (.deserialize p) s = .next (s.withBlock { s.block with df := F, dv := true, ce := false }) := by
  rw [exec_accept (deserialize_staysIdle p) idle, accept_deserialize, decodePayload_ok h]

theorem exec_deserialize_error {p : BitVec 56} {s : State} {e : BlockException} (idle : s.block.busy = false)
    (h : Sys2Proof.deserialize (Buf.ofVec p) = .error e) :
    exec (.deserialize p) s = .next (s.withBlock { s.block with dv := false, ce := true }) := by
  rw [exec_accept (deserialize_staysIdle p) idle, accept_deserialize, decodePayload_error h]

/-! ## The statements -/

/-- Settles O10: every byte adds its two nibbles. -/
theorem checksumIsTheXorOfAllNibbles : Obligations.ChecksumIsTheXorOfAllNibbles := by
  intro B
  simp only [checksum_eq_nibbleSum, nibbleSum]
  ac_rfl

/-- Settles O11: the second half moves the stored nibble to the other side of the sum over all nibbles. -/
theorem insertedChecksumMakesTheSumZero : Obligations.InsertedChecksumMakesTheSumZero := by
  refine ⟨fun B empty => checksum_insertChecksum empty, fun B => ?_⟩
  refine Iff.trans ?_ BitVec.xor_eq_zero_iff
  rw [checksumIsTheXorOfAllNibbles B]
  refine Eq.congr_left ?_
  ac_rfl

/-- Settles O13, its five parts proved one by one. -/
theorem scramblerIsInvertibleAndLinear : Obligations.ScramblerIsInvertibleAndLinear := fun X Y =>
  ⟨deobfuscate_obfuscate X, obfuscate_deobfuscate X, obfuscate_xor X Y, deobfuscate_xor X Y, checksum_xor X Y⟩

/-- Settles O18: the payload's checksum is the nibble sum of its last byte. -/
theorem payloadValidIffLastNibblesEqual : Obligations.PayloadValidIffLastNibblesEqual := fun P =>
  ⟨checksum_deobfuscate P, exists_deserialize_eq_ok⟩

/-- Settles O19: the payload is made like Serialize's, but with `h` for the constant nibble. -/
theorem deserializeChecksNothingElse : Obligations.DeserializeChecksNothingElse := by
  intro h c k r a
  refine ⟨obfuscate (insertChecksum (markedLayout h ⟨c, k, r, a⟩)), hiNibble_append h c, ?_⟩
  have empty : loNibble (markedLayout h ⟨c, k, r, a⟩).b1 = 0#4 := layout_b1_lo _ _
  rw [deserialize_obfuscate (checksum_insertChecksum empty), extract_insertChecksum, extract_markedLayout]

/-- Settles O20: the operand of DESERIALIZE is the vector of the payload just registered. -/
theorem serializeThenDeserializeIsTheIdentity : Obligations.SerializeThenDeserializeIsTheIdentity := by
  refine ⟨deserialize_serialize, fun s idle => ?_⟩
  have accepted : Sys2Proof.deserialize (Buf.ofVec (Sys2Proof.serialize s.block.fr).vec) = .ok s.block.fr := by
    rw [ofVec_vec, deserialize_serialize]
  rw [execAll_accept (by simp [serialize_staysIdle, deserialize_staysIdle]) idle]
  simp only [List.foldl, accept_serialize, accept_deserialize, decodePayload_ok accepted]
  rfl

/-- Settles O21, by the payloads Serialize makes. -/
theorem reverseRoundTripIffAcceptedAndMarked : Obligations.ReverseRoundTripIffAcceptedAndMarked := by
  intro P
  simp only [serialize_eq_iff, and_self_left, exists_and_right]

/-- Settles O22: a flipped wire bit is the error pattern with that bit alone. -/
theorem errorDetectedIffLastNibblesDiffer : Obligations.ErrorDetectedIffLastNibblesDiffer := by
  intro P accepted
  have detected := deserialize_xor_eq_error (exists_deserialize_eq_ok.mp accepted)
  refine ⟨detected, fun n hn => ?_⟩
  rw [ofVec_xor, ofVec_vec, detected, wireBit_b6_nibbles_ne n hn]

/-- Settles O23: the payload with the other counter in byte 0 is one that Serialize makes, of the frame with that
counter. -/
theorem counterShowsInByteZeroOnly : Obligations.CounterShowsInByteZeroOnly := fun F c =>
  ⟨serialize_b0 F, serialize_counter F c, serialize_b6_nibbles F⟩

/-- Settles O12, by the step from each byte to the next. -/
theorem scramblerHasItsClosedForms : Obligations.ScramblerHasItsClosedForms :=
  ⟨fun B _ hi => obfuscate_byte_eq_foldl B hi, fun P => ⟨rfl, fun _ hi => deobfuscate_byte_succ P hi⟩⟩

/-- Settles O15: the command's effect on an idle block, whose line is low. -/
theorem serializeRegistersThePayload : Obligations.SerializeRegistersThePayload := by
  refine ⟨fun arg => ?_, fun s idle => ⟨exec_accept serialize_staysIdle idle, tx_idle idle⟩, by decide⟩
  obtain ⟨-, serialize, -⟩ := operandFormatsAreThoseOfR72.1 arg
  exact serialize

/-- Settles O16: the operand's bytes stand where the vector has them, and the checksum decides which outcome. -/
theorem deserializeAcceptsOrSignals : Obligations.DeserializeAcceptsOrSignals := by
  refine ⟨fun arg => ?_, fun p i j hi hj => ?_, fun p s idle => ⟨fun zero => ?_, fun nonzero => ?_⟩⟩
  · obtain ⟨-, -, -, -, -, -, -, deserialize, -⟩ := operandFormatsAreThoseOfR72.1 arg
    exact deserialize
  · rw [← vec_bit_of_byte (Buf.ofVec p) hi hj, vec_ofVec, show 8 * (6 - i) = 48 - 8 * i by omega]
  · exact exec_deserialize_ok idle (if_pos zero)
  · exact exec_deserialize_error idle (if_neg nonzero)

end Sys2Proof.Machine

/-! Proofs of the statements about the Manchester encoder (`42_manchester_encoder.md`). First the levels of a symbol's
two halves; then where the table has a payload's rows, and that each row starts where the one before it ends; then the
tick machine, which is in each row for exactly its duration; then the bits the reference decoder samples and packs;
then the statements. -/

namespace Sys2Proof

/-! ## The two halves of a symbol (R131, R133) -/

@[simp] theorem manch_false (b : Bool) : manch b false = !b := by cases b <;> rfl
@[simp] theorem manch_true (b : Bool) : manch b true = b := by cases b <;> rfl

theorem payloadSegment_firstHalf_level (P : Buf) (n : Nat) : (payloadSegment P (2 * n)).level = !wbit P n := by
  simp [payloadSegment]

theorem payloadSegment_secondHalf_level (P : Buf) (n : Nat) : (payloadSegment P (2 * n + 1)).level = wbit P n := by
  simp [payloadSegment, show (2 * n + 1) / 2 = n by omega]

/-! ## The rows of the table, frame by frame (R142, R150) -/

/-- Row `j` of frame 0. -/
theorem segAt_first (P : Buf) {j : Nat} (hj : j < 119) : segAt P (2 + j) = frameSegment P 4 j := by
  simp (disch := omega) only [segAt, if_neg, if_pos, Nat.add_sub_cancel_left]

theorem segStart_first {j : Nat} (hj : j < 119) : segStart (2 + j) = 48000 + frameOffset 4 j := by
  simp (disch := omega) only [segStart, if_neg, if_pos, Nat.add_sub_cancel_left]

/-- Row `j` of frame `i + 1`. -/
theorem segAt_repeat (P : Buf) {i j : Nat} (hi : i < 5) (hj : j < 127) :
    segAt P (121 + 127 * i + j) = frameSegment P 12 j := by
  simp (disch := omega) only [segAt, if_neg, if_pos]
  congr 1; omega

theorem segStart_repeat {i j : Nat} (hi : i < 5) (hj : j < 127) :
    segStart (121 + 127 * i + j) = 169120 + 141120 * i + frameOffset 12 j := by
  simp (disch := omega) only [segStart, if_neg, if_pos, show (121 + 127 * i + j - 121) / 127 = i by omega,
    show (121 + 127 * i + j - 121) % 127 = j by omega]

theorem frameSegment_payload (P : Buf) {h q : Nat} (hq : q < 112) :
    frameSegment P h (h + 2 + q) = payloadSegment P q := by
  simp (disch := omega) only [frameSegment, if_neg, if_pos, Nat.add_sub_cancel_left]

theorem frameOffset_payload (h q : Nat) : frameOffset h (h + 2 + q) = 2500 * h + 5440 + 640 * q := by
  simp (disch := omega) only [frameOffset, if_neg, Nat.add_sub_cancel_left]

/-- Half-bit segment `q` of frame `r`: frames start 127 rows apart. -/
theorem segAt_payload (P : Buf) {r q : Nat} (hr : r < 6) (hq : q < 112) :
    segAt P (8 + 127 * r + q) = payloadSegment P q := by
  cases r with
  | zero => rw [← frameSegment_payload P (h := 4) hq, ← segAt_first P (by omega)]; congr 1; omega
  | succ i =>
    rw [← frameSegment_payload P (h := 12) hq, ← segAt_repeat P (i := i) (by omega) (by omega)]; congr 1; omega

theorem segStart_payload {r q : Nat} (hr : r < 6) (hq : q < 112) :
    segStart (8 + 127 * r + q) = payloadStart r + 640 * q := by
  cases r with
  | zero =>
    rw [show 8 + 127 * 0 + q = 2 + (4 + 2 + q) by omega, segStart_first (by omega), frameOffset_payload, payloadStart]
    omega
  | succ i =>
    rw [show 8 + 127 * (i + 1) + q = 121 + 127 * i + (12 + 2 + q) by omega, segStart_repeat (by omega) (by omega),
      frameOffset_payload, payloadStart]
    omega

theorem frameOffset_succ (P : Buf) {h j : Nat} (hj : j < h + 114) :
    frameOffset h (j + 1) = frameOffset h j + (frameSegment P h j).duration := by
  rw [frameSegment_duration]
  unfold frameOffset
  split_ifs <;> omega

/-- After its last row, the gap, a frame with `h` hardware-sync rows is over. -/
theorem frameOffset_add_gap (P : Buf) (h : Nat) :
    frameOffset h (h + 114) + (frameSegment P h (h + 114)).duration = 2500 * h + 111120 := by
  have start : frameOffset h (h + 114) = 2500 * h + 5440 + 640 * 112 := frameOffset_payload h 112
  have gap : (frameSegment P h (h + 114)).duration = 34000 := by
    simp (disch := omega) only [frameSegment_duration, if_neg]
  omega

@[simp] theorem frameOffset_zero (h : Nat) : frameOffset h 0 = 0 := by simp [frameOffset]

/-- The rows of the table: the wakeup's two, frame 0's, and those of the five frames after it (R142). -/
theorem row_cases {s : Nat} (hs : s < 756) : s = 0 ∨ s = 1 ∨ (∃ j < 119, s = 2 + j) ∨
    ∃ i < 5, ∃ j < 127, s = 121 + 127 * i + j := by
  by_cases wake : s < 2
  · omega
  · by_cases first : s < 121
    · exact .inr (.inr (.inl ⟨s - 2, by omega, by omega⟩))
    · exact .inr (.inr (.inr ⟨(s - 121) / 127, by omega, (s - 121) % 127, by omega, by omega⟩))

/-- Each segment starts where the one before it ends (R142). -/
theorem segStart_succ (P : Buf) {s : Nat} (hs : s < 756) :
    segStart (s + 1) = segStart s + (segAt P s).duration := by
  obtain rfl | rfl | ⟨j, hj, rfl⟩ | ⟨i, hi, j, hj, rfl⟩ := row_cases hs
  · simp [segStart, segAt, tWakeH]
  · simp [segStart, segAt, tWakeL, frameOffset]
  · rw [segAt_first P hj, segStart_first hj, Nat.add_assoc, Nat.add_assoc]
    obtain hj | rfl : j < 118 ∨ j = 118 := by omega
    · rw [segStart_first (by omega), frameOffset_succ P hj]
    · have gap : frameOffset 4 118 + (frameSegment P 4 118).duration = 121120 := frameOffset_add_gap P 4
      rw [gap]
      exact segStart_repeat (i := 0) (j := 0) (by decide) (by decide)
  · rw [segAt_repeat P hi hj, segStart_repeat hi hj, Nat.add_assoc, Nat.add_assoc (169120 + _)]
    obtain hj | rfl : j < 126 ∨ j = 126 := by omega
    · rw [segStart_repeat hi (by omega), frameOffset_succ P hj]
    · have gap : frameOffset 12 126 + (frameSegment P 12 126).duration = 141120 := frameOffset_add_gap P 12
      rw [gap]
      obtain hi | rfl : i < 4 ∨ i = 4 := by omega
      · rw [show 121 + 127 * i + (126 + 1) = 121 + 127 * (i + 1) + 0 by omega,
          segStart_repeat (by omega) (by decide), frameOffset_zero]
        omega
      · simp [segStart, tTotal]

/-! ## The bits on the line, packed into bytes (R9, R54, R135) -/

/-- Bit `i` in the order sent stands at `7 - i` in the byte. -/
theorem byteOfBits_bit (f : Nat → Bool) {i : Nat} (hi : i < 8) : (byteOfBits f).getLsbD (7 - i) = f i := by
  refine BitVec.getLsbD_append.trans ?_
  simp only [BitVec.getLsbD_append]
  interval_cases i <;> simp

/-- Eight bits in the order sent make up their byte. -/
theorem byteOfBits_eq_byte {P : Buf} {m : Nat} {f : Nat → Bool} (h : ∀ i < 8, f i = wbit P (8 * m + i)) :
    byteOfBits f = P.byte m := by
  apply BitVec.eq_of_getLsbD_eq
  intro j hj
  obtain ⟨i, hi, rfl⟩ : ∃ i < 8, j = 7 - i := ⟨7 - j, by omega, by omega⟩
  rw [byteOfBits_bit f hi, h i hi, wbit, show (8 * m + i) / 8 = m by omega, show (8 * m + i) % 8 = i by omega]

/-- If all 56 samples are the bits of a payload, the decoder packs that payload. -/
theorem sampledPayload_eq {P : Buf} {w : Nat → Bool} {t0 : Nat} (h : ∀ n < 56, sampledBit w t0 n = wbit P n) :
    sampledPayload w t0 = P := by
  have packed {m : Nat} (hm : m < 7) : byteOfBits (fun i => sampledBit w t0 (8 * m + i)) = P.byte m :=
    byteOfBits_eq_byte fun i hi => h _ (by omega)
  apply Buf.ext
  · exact byteOfBits_eq_byte (m := 0) fun i hi => by rw [Nat.mul_zero, Nat.zero_add]; exact h _ (by omega)
  · exact packed (m := 1) (by decide)
  · exact packed (m := 2) (by decide)
  · exact packed (m := 3) (by decide)
  · exact packed (m := 4) (by decide)
  · exact packed (m := 5) (by decide)
  · exact packed (m := 6) (by decide)

end Sys2Proof

namespace Sys2Proof.Machine

/-! ## The tick machine in the table (R145, R147) -/

/-- Block `b` when segment `s` has `r` ticks left. -/
def Block.inSegment (b : Block) (s r : Nat) : Block := { b with seg := BitVec.ofNat 10 s, rem := BitVec.ofNat 16 r }

@[simp] theorem inSegment_busy (b : Block) (s r : Nat) : (b.inSegment s r).busy = b.busy := rfl
@[simp] theorem inSegment_pb (b : Block) (s r : Nat) : (b.inSegment s r).pb = b.pb := rfl

theorem inSegment_seg_toNat (b : Block) {s : Nat} (r : Nat) (hs : s < 756) : (b.inSegment s r).seg.toNat = s :=
  Nat.mod_eq_of_lt (by omega)

theorem inSegment_rem_toNat (b : Block) (s : Nat) {r : Nat} (hr : r < 65536) : (b.inSegment s r).rem.toNat = r :=
  Nat.mod_eq_of_lt hr

theorem tick_inSegment_count {b : Block} (busy : b.busy = true) (s : Nat) {r : Nat} (pos : 0 < r)
    (hr : r + 1 < 65536) : (b.inSegment s (r + 1)).tick = b.inSegment s r := by
  have rem := inSegment_rem_toNat b s hr
  have pred : (b.inSegment s (r + 1)).rem - 1#16 = BitVec.ofNat 16 r := by bv_omega
  rw [tick_count (b := b.inSegment s (r + 1)) busy (by omega), pred]
  rfl

theorem tick_inSegment_last {b : Block} (busy : b.busy = true) {s : Nat} (hs : s < 755) :
    (b.inSegment s 1).tick = b.inSegment (s + 1) (segAt b.pb (s + 1)).duration := by
  have rem := inSegment_rem_toNat b s (r := 1) (by decide)
  have seg := inSegment_seg_toNat b 1 (show s < 756 by omega)
  have succ : (b.inSegment s 1).seg + 1#10 = BitVec.ofNat 10 (s + 1) := by bv_omega
  rw [tick_advance (b := b.inSegment s 1) busy (by omega) (by omega), seg, succ]
  rfl

/-- Within a segment `k` ticks take `k` off what is left of it. -/
theorem ticks_inSegment {b : Block} (busy : b.busy = true) (s : Nat) {r k : Nat} (pos : 0 < r)
    (hr : r + k < 65536) : (b.inSegment s (r + k)).ticks k = b.inSegment s r := by
  induction k with
  | zero => rfl
  | succ k ih =>
    have first : (b.inSegment s (r + (k + 1))).tick = b.inSegment s (r + k) :=
      tick_inSegment_count busy s (r := r + k) (by omega) hr
    rw [Block.ticks, first, ih (by omega)]

/-- A segment's duration leads to the start of the next. -/
theorem ticks_duration {b : Block} (busy : b.busy = true) {s : Nat} (hs : s < 755) :
    (b.inSegment s (segAt b.pb s).duration).ticks (segAt b.pb s).duration =
      b.inSegment (s + 1) (segAt b.pb (s + 1)).duration := by
  obtain ⟨lower, upper⟩ := segAt_duration_bounds b.pb (s := s) (by omega)
  obtain ⟨d, hd⟩ : ∃ d, (segAt b.pb s).duration = 1 + d := ⟨_, (Nat.add_sub_of_le (by omega)).symm⟩
  rw [hd, Nat.add_comm 1 d, ticks_add, Nat.add_comm d 1, ticks_inSegment busy s (by decide) (by omega)]
  exact tick_inSegment_last busy hs

theorem ticks_segStart (b : Block) {s : Nat} (hs : s < 756) :
    b.startTransmission.ticks (segStart s) =
      b.startTransmission.inSegment s (segAt (serialize b.fr) s).duration := by
  induction s with
  | zero => rfl
  | succ s ih =>
    rw [segStart_succ (serialize b.fr) (by omega), ticks_add, ih (by omega)]
    exact ticks_duration (startTransmission_busy b) (by omega)

/-- `k` ticks into segment `s` of a transmission (R145). -/
theorem ticks_segStart_add (b : Block) {s k : Nat} (hs : s < 756) (hk : k < (segAt (serialize b.fr) s).duration) :
    b.startTransmission.ticks (segStart s + k) =
      b.startTransmission.inSegment s ((segAt (serialize b.fr) s).duration - k) := by
  obtain ⟨-, upper⟩ := segAt_duration_bounds (serialize b.fr) hs
  have inside := ticks_inSegment (startTransmission_busy b) s (Nat.sub_pos_of_lt hk)
    (by rw [Nat.sub_add_cancel hk.le]; omega)
  rw [Nat.sub_add_cancel hk.le] at inside
  rw [ticks_add, ticks_segStart b hs, inside]

/-- The line has a segment's level for all of its duration (R28, R147). -/
theorem tx_ticks_segStart_add (b : Block) {s k : Nat} (hs : s < 756)
    (hk : k < (segAt (serialize b.fr) s).duration) :
    (b.startTransmission.ticks (segStart s + k)).tx = (segAt (serialize b.fr) s).level := by
  rw [ticks_segStart_add b hs hk, tx_busy (by simp), inSegment_seg_toNat b.startTransmission _ hs, inSegment_pb,
    startTransmission_pb]

/-- Each sample falls into the middle of a second half, whose level is the bit (R131, R135). -/
theorem sampledBit_line (b : Block) {r n : Nat} (hr : r < 6) (hn : n < 56) :
    sampledBit (fun k => (b.startTransmission.ticks k).tx) (payloadStart r) n = wbit (serialize b.fr) n := by
  have row := segAt_payload (serialize b.fr) hr (show 2 * n + 1 < 112 by omega)
  have time : payloadStart r + 1280 * n + 960 = segStart (8 + 127 * r + (2 * n + 1)) + 320 := by
    rw [segStart_payload hr (by omega)]; omega
  rw [sampledBit, time, tx_ticks_segStart_add b (by omega) (by rw [row, payloadSegment_duration]; decide), row,
    payloadSegment_secondHalf_level]

/-! ## The statements -/

/-- Settles O28: a symbol ends with its bit and the next begins with the negation of its own. -/
theorem manchesterLevelChanges : Obligations.ManchesterLevelChanges := by
  intro P
  simp only [payloadSegment_firstHalf_level, payloadSegment_secondHalf_level]
  exact ⟨fun n _ => Bool.not_ne_self _, fun n _ => Bool.ne_not⟩

/-- Settles O38: the samples are the payload's bits, so the decoder packs the payload, which deserializes. -/
theorem samplingTheLineRecoversTheFrame : Obligations.SamplingTheLineRecoversTheFrame := by
  intro b r hr
  have payload := sampledPayload_eq fun n hn => sampledBit_line b hr hn
  rw [payload]
  exact ⟨rfl, deserialize_serialize b.fr⟩

/-- Settles O27: the four entries, the expression for them, and the symbol's segments. -/
theorem manchesterTableIsR131 : Obligations.ManchesterTableIsR131 :=
  ⟨rfl, rfl, rfl, rfl, by decide, bitSymbol_segments⟩

end Sys2Proof.Machine

/-! Proofs of the statements about the pulse formatter (`43_pulse_formatter.md`). First the rows of a frame, the sums
of their durations and the segment that a tick falls into; then what of the table depends on the payload; then the
table as symbols, for its high ticks and its calls; then the end of a transmission; then a busy block's step; then the
statements. -/

namespace Sys2Proof

/-! ## The rows of a frame (R142) -/

theorem frameSegment_hw (P : Buf) {h j : Nat} (hj : j < h) : frameSegment P h j = ⟨j % 2 == 0, 2500⟩ := by
  rw [frameSegment, if_pos hj, tHw]

theorem frameOffset_hw {h j : Nat} (hj : j ≤ h) : frameOffset h j = 2500 * j := by
  rw [frameOffset, if_pos hj]

/-! ## Durations before a row, and the row at a tick (R142, R147, R152) -/

@[simp] theorem totalTicks_append (l m : List Segment) : totalTicks (l ++ m) = totalTicks l + totalTicks m := by
  simp [totalTicks]

theorem segments_take (P : Buf) {s : Nat} (hs : s ≤ 756) : (segments P).take s = (List.range s).map (segAt P) := by
  rw [segments, ← List.map_take, List.take_range, nSegments, Nat.min_eq_left hs]

theorem segments_take_succ (P : Buf) {s : Nat} (hs : s < 756) :
    (segments P).take (s + 1) = (segments P).take s ++ [segAt P s] := by
  rw [segments_take P hs, segments_take P hs.le, List.range_succ, List.map_append, List.map_singleton]

theorem segStart_eq_totalTicks (P : Buf) {s : Nat} (hs : s ≤ 756) :
    segStart s = totalTicks ((segments P).take s) := by
  induction s with
  | zero => rfl
  | succ s ih =>
    rw [segStart_succ P hs, ih (by omega), segments_take_succ P hs, totalTicks_append]
    rfl

/-- Every tick before the start of a row falls into a row before it. -/
theorem exists_row_of_lt_segStart (P : Buf) {m n : Nat} (hm : m ≤ 756) (hn : n < segStart m) :
    ∃ s < m, ∃ k < (segAt P s).duration, n = segStart s + k := by
  induction m with
  | zero => exact absurd hn (Nat.not_lt_zero n)
  | succ m ih =>
    rw [segStart_succ P hm] at hn
    by_cases before : n < segStart m
    · obtain ⟨s, hs, row⟩ := ih (by omega) before
      exact ⟨s, by omega, row⟩
    · exact ⟨m, by omega, n - segStart m, by omega, by omega⟩

/-- Every tick of a transmission falls into one of the 756 rows. -/
theorem exists_row (P : Buf) {n : Nat} (hn : n < 874720) :
    ∃ s < 756, ∃ k < (segAt P s).duration, n = segStart s + k :=
  exists_row_of_lt_segStart P le_rfl hn

/-- A list of segments shows each segment's level once those before it are over. -/
theorem levelAt_append_cons (l m : List Segment) {g : Segment} {k : Nat} (hk : k < g.duration) :
    levelAt (l ++ g :: m) (totalTicks l + k) = g.level := by
  induction l with
  | nil => simp [totalTicks, levelAt, hk]
  | cons a l ih =>
    have past : totalTicks (a :: l) + k = a.duration + (totalTicks l + k) := by simp [totalTicks, Nat.add_assoc]
    simp [levelAt, past, ih]

theorem wave_segStart_add (P : Buf) {s k : Nat} (hs : s < 756) (hk : k < (segAt P s).duration) :
    wave P (segStart s + k) = (segAt P s).level := by
  have split : segments P = (segments P).take s ++ segAt P s :: (segments P).drop (s + 1) := by
    rw [List.append_cons, ← segments_take_succ P hs, List.take_append_drop]
  have level := levelAt_append_cons ((segments P).take s) ((segments P).drop (s + 1)) hk
  rwa [← split, ← segStart_eq_totalTicks P hs.le] at level

/-! ## What depends on the payload (R149) -/

theorem frameSegment_duration_congr (P Q : Buf) (h j : Nat) :
    (frameSegment P h j).duration = (frameSegment Q h j).duration := by
  rw [frameSegment_duration, frameSegment_duration]

theorem segAt_duration_congr (P Q : Buf) (s : Nat) : (segAt P s).duration = (segAt Q s).duration := by
  unfold segAt
  split_ifs
  · rfl
  · rfl
  · exact frameSegment_duration_congr P Q 4 _
  · exact frameSegment_duration_congr P Q 12 _
  · rfl

/-- A row of a frame belongs to a payload bit, or it is the same for every payload. -/
theorem frameSymbolAt_bit_or_frameSegment_eq (P Q : Buf) (h j : Nat) :
    (∃ b, ∃ k < 2, frameSymbolAt P h j = (bitSymbol b, k)) ∨ frameSegment P h j = frameSegment Q h j := by
  by_cases payload : h + 2 ≤ j ∧ j < h + 114
  · refine .inl ⟨wbit P ((j - (h + 2)) / 2), _, Nat.mod_lt (j - (h + 2)) two_pos, ?_⟩
    simp (disch := omega) only [frameSymbolAt, if_neg, if_pos]
  · right
    unfold frameSegment
    split_ifs <;> first | rfl | omega

theorem symbolAt_first (P : Buf) {j : Nat} (hj : j < 119) : symbolAt P (2 + j) = some (frameSymbolAt P 4 j) := by
  simp (disch := omega) only [symbolAt, if_neg, if_pos, Nat.add_sub_cancel_left]

theorem symbolAt_repeat (P : Buf) {i j : Nat} (hi : i < 5) (hj : j < 127) :
    symbolAt P (121 + 127 * i + j) = some (frameSymbolAt P 12 j) := by
  simp (disch := omega) only [symbolAt, if_neg, if_pos, show (121 + 127 * i + j - 121) % 127 = j by omega]

theorem symbolAt_bit_or_segAt_eq (P Q : Buf) (s : Nat) :
    (∃ b, ∃ k < 2, symbolAt P s = some (bitSymbol b, k)) ∨ segAt P s = segAt Q s := by
  by_cases table : s < 756
  · obtain rfl | rfl | ⟨j, hj, rfl⟩ | ⟨i, hi, j, hj, rfl⟩ := row_cases table
    · exact .inr rfl
    · exact .inr rfl
    · simpa [symbolAt_first P hj, segAt_first _ hj] using frameSymbolAt_bit_or_frameSegment_eq P Q 4 j
    · simpa [symbolAt_repeat P hi hj, segAt_repeat _ hi hj] using frameSymbolAt_bit_or_frameSegment_eq P Q 12 j
  · right
    simp (disch := omega) only [segAt, if_neg]

/-! ## High ticks, symbol by symbol (R151) -/

@[simp] theorem highTicks_append (l m : List Segment) : highTicks (l ++ m) = highTicks l + highTicks m := by
  simp [highTicks]

theorem highTicks_lineSegments (l : List Symbol) :
    highTicks (lineSegments l) = (l.map fun x => highTicks x.segments).sum := by
  induction l with
  | nil => rfl
  | cons x l ih => rw [List.map_cons, List.sum_cons, ← ih, ← highTicks_append]; rfl

/-- A payload bit is high for one half, whichever it is (R131). -/
@[simp] theorem highTicks_bitSymbol (b : Bool) : highTicks (bitSymbol b).segments = 640 := by cases b <;> rfl

theorem highTicks_frameSymbols (P : Buf) (n : Nat) :
    highTicks (lineSegments (frameSymbols P n)) = 2500 * n + 40640 := by
  have hw : highTicks Symbol.hw.segments = 2500 := rfl
  have sw : highTicks Symbol.sw.segments = 4800 := rfl
  have gap : highTicks Symbol.gap.segments = 0 := rfl
  simp [highTicks_lineSegments, frameSymbols, payloadSymbols, nBits, hw, sw, gap, Function.comp_def]
  omega

theorem highTicks_repeats (l : List Symbol) (n : Nat) :
    highTicks (lineSegments (List.replicate n l).flatten) = n * highTicks (lineSegments l) := by
  induction n with
  | zero => rw [Nat.zero_mul]; rfl
  | succ n ih => rw [List.replicate_succ, List.flatten_cons, lineSegments_append, highTicks_append, ih]; ring

theorem highTicks_segments (P : Buf) : highTicks (segments P) = 333840 := by
  have wake : highTicks (lineSegments [.wake]) = 10000 := rfl
  rw [← lineSegments_transmissionSymbols, transmissionSymbols, lineSegments_append, lineSegments_append,
    highTicks_append, highTicks_append, highTicks_repeats, highTicks_frameSymbols, highTicks_frameSymbols, wake]
  rfl

/-! ## The calls, symbol by symbol (R143, R144) -/

/-- The calls that make the segments of a string of symbols. -/
def lineCalls (l : List Symbol) : List LineCall := ((lineSegments l).map Segment.calls).flatten

@[simp] theorem lineCalls_append (l m : List Symbol) : lineCalls (l ++ m) = lineCalls l ++ lineCalls m := by
  simp [lineCalls]

theorem lineCalls_flatten (l : List (List Symbol)) : lineCalls l.flatten = (l.map lineCalls).flatten := by
  induction l with
  | nil => rfl
  | cons x l ih => rw [List.flatten_cons, lineCalls_append, ih]; rfl

theorem lineCalls_hw (n : Nat) : lineCalls (List.replicate n .hw) = callsHwSync n := by
  induction n with
  | zero => rfl
  | succ n ih => rw [List.replicate_succ, ← List.singleton_append, lineCalls_append, ih]; rfl

theorem lineCalls_bitSymbol (b : Bool) : lineCalls [bitSymbol b] = callsBit b := by cases b <;> rfl

theorem lineCalls_payloadSymbols (P : Buf) :
    lineCalls (payloadSymbols P) = ((List.range 56).map fun n => callsBit (wbit P n)).flatten := by
  rw [payloadSymbols, nBits, List.map_eq_flatMap, List.flatMap_def, lineCalls_flatten, List.map_map]
  simp only [Function.comp_def, lineCalls_bitSymbol]

/-- The calls of one frame up to the forced low that ends its payload (R143). -/
def callsFrame (P : Buf) (n : Nat) : List LineCall := callsHwSync n ++ callsSwSync ++ callsPayload P

/-- The forced low and the delay that follows it make the gap. -/
theorem lineCalls_frameSymbols (P : Buf) (n : Nat) :
    lineCalls (frameSymbols P n) = callsFrame P n ++ [.delay 34000] := by
  have sw : lineCalls [.sw] = callsSwSync := rfl
  have gap : lineCalls [.gap] = [.setLow, .delay 34000] := rfl
  rw [frameSymbols, lineCalls_append, lineCalls_append, lineCalls_append, lineCalls_hw, sw,
    lineCalls_payloadSymbols, gap]
  simp [callsFrame, callsPayload]

/-- A block before each of `n` passes and once more at the end is the same as one first and one after each. -/
theorem flatten_replicate_append_comm {α : Type} (a m : List α) (n : Nat) :
    (List.replicate n (a ++ m)).flatten ++ a = a ++ (List.replicate n (m ++ a)).flatten := by
  induction n with
  | zero => simp
  | succ n ih => simp [List.replicate_succ, ih]

/-- The procedure calls the delay of each gap where its step 5 or 6 begins; the table has it where the frame ends. -/
theorem calls_eq_lineCalls (P : Buf) : calls P = lineCalls (transmissionSymbols P) := by
  have repeats : (List.replicate 5 (callsRepeat P)).flatten ++ [.delay 34000] =
      [.delay 34000] ++ lineCalls (List.replicate nRepeats (frameSymbols P nHwRepeat)).flatten := by
    rw [lineCalls_flatten, List.map_replicate, lineCalls_frameSymbols, ← flatten_replicate_append_comm]
    simp [callsRepeat, callsFrame, nRepeats, nHwRepeat]
  have wake : lineCalls [.wake] = [.setHigh, .delay 10000, .setLow, .delay 38000] := rfl
  simp only [calls, transmissionSymbols, lineCalls_append, lineCalls_frameSymbols, wake, List.append_assoc, repeats,
    nHwFirst, callsFrame]

theorem calls_eq_segments (P : Buf) : calls P = ((segments P).map Segment.calls).flatten := by
  rw [calls_eq_lineCalls, lineCalls, lineSegments_transmissionSymbols]

end Sys2Proof

namespace Sys2Proof.Machine

/-! ## The end of a transmission (R148) -/

theorem ticks_succ (b : Block) (n : Nat) : b.ticks (n + 1) = (b.ticks n).tick := ticks_add b n 1

theorem ticks_transmission_busy (b : Block) {n : Nat} (hn : n < 874720) :
    (b.startTransmission.ticks n).busy = true := by
  obtain ⟨s, hs, k, hk, rfl⟩ := exists_row (serialize b.fr) hn
  rw [ticks_segStart_add b hs hk]; rfl

/-- The last tick of the last gap ends the transmission (R147). -/
theorem ticks_transmission (b : Block) : b.startTransmission.ticks 874720 = b.startTransmission.stopTransmission := by
  have gap : (segAt (serialize b.fr) 755).duration = 34000 := rfl
  have last := ticks_segStart_add b (s := 755) (k := 33999) (by decide) (by rw [gap]; decide)
  have time : 874720 = segStart 755 + 33999 + 1 := rfl
  have rem := inSegment_rem_toNat b.startTransmission 755 (r := 1) (by decide)
  have seg := inSegment_seg_toNat b.startTransmission (s := 755) 1 (by decide)
  rw [gap] at last
  rw [time, ticks_succ, last, tick_stop (by simp) (by simp [rem]) (by simp [seg])]
  rfl

/-! ## A busy block's step (R147, R205, R206) -/

theorem act_wait_busy {s : State} (rest : List HostAction) (busy : s.block.busy = true) :
    s.act rest .wait = .next s.tick := by
  rw [State.act, Block.cmdReady, busy]; exact lineTick_eq s

/-- A command offered to a busy block is withdrawn, and the port is empty for a tick (R177, R205; log 17). -/
theorem act_offer_busy {s : State} (rest : List HostAction) (w : BitVec 59) (busy : s.block.busy = true) :
    s.act rest (.offer w) = .next (s.withScript (.pass 1 :: rest)).tick := by
  rw [State.act, Block.cmdReady, busy]; exact lineTick_eq _

/-- Up to its WAIT a SendControlCode lets a busy block tick (R171, R206). -/
theorem sendStage_busy {s : State} {p : SendCall} (busy : s.block.busy = true) (hp : p.stage ≠ .persist) :
    s.sendStage p = .next s.tick := by
  unfold State.sendStage
  split
  · exact hold_busy busy
  · rw [if_neg hp, if_neg (by simp [Block.cmdReady, busy]), lineTick_eq]

/-- The host's own actions, which take no time (log 3; R85, R171, R176; a wire frame: log 1). -/
theorem act_of_no_time {s : State} {a : HostAction} (rest : List HostAction)
    (h : a = .pass 0 ∨ a = .startUp ∨ (∃ b c d r, a = .setFrame b c d r) ∨ (∃ code l, a = .send code l) ∨
      ∃ w, a = .frame w ∧ w.extractLsb' 52 4 = 0xA#4) :
    ∃ t : State, s.act rest a = .next t ∧ t.block = s.block := by
  obtain rfl | rfl | ⟨b, c, d, r, rfl⟩ | ⟨code, l, rfl⟩ | ⟨w, rfl, hA⟩ := h
  · exact ⟨_, rfl, rfl⟩
  · exact ⟨_, rfl, rfl⟩
  · exact ⟨_, rfl, rfl⟩
  · exact ⟨_, rfl, rfl⟩
  · rw [State.act, issue_ok (decode_plain_eq_ok.mpr ⟨hA, rfl⟩), exec_of_wireFields (wireFields_ctrlInstr _ _)]
    exact ⟨_, rfl, rfl⟩

theorem sendStage_persist {s : State} {p : SendCall} (hp : p.stage = .persist) :
    ∃ t : State, s.sendStage p = .next t ∧ t.block = s.block := by
  rw [State.sendStage, SendCall.command, hp]
  exact ⟨_, rfl, rfl⟩

/-! ## The statements -/

/-- Settles O29: frame 0's rows and those of frame `i + 1`, each a frame's row at its place. -/
theorem segmentTableIsR142 : Obligations.SegmentTableIsR142 := by
  intro P
  refine ⟨⟨rfl, rfl⟩, ⟨rfl, rfl⟩, fun j hj => ?_, ⟨rfl, rfl⟩, ⟨rfl, rfl⟩, fun q hq => ?_, ⟨rfl, rfl⟩,
    fun r hr hr' => ?_⟩
  · rw [segAt_first P (by omega), segStart_first (by omega), frameSegment_hw P hj, frameOffset_hw hj.le]
    exact ⟨rfl, rfl⟩
  · exact ⟨segAt_payload P (r := 0) (by decide) hq, segStart_payload (r := 0) (by decide) hq⟩
  · obtain ⟨i, rfl⟩ : ∃ i, r = i + 1 := ⟨r - 1, by omega⟩
    have hi : i < 5 := by omega
    rw [Nat.add_sub_cancel]
    have row {j : Nat} (hj : j < 127) : segAt P (121 + 127 * i + j) = frameSegment P 12 j ∧
        segStart (121 + 127 * i + j) = 169120 + 141120 * i + frameOffset 12 j :=
      ⟨segAt_repeat P hi hj, segStart_repeat hi hj⟩
    refine ⟨fun j hj => ?_, row (by decide), row (by decide), fun q hq => ?_, row (by decide)⟩
    · rw [← frameSegment_hw P hj, ← frameOffset_hw hj.le]
      exact row (by omega)
    · obtain ⟨level, start⟩ := row (j := 12 + 2 + q) (by omega)
      rw [Nat.add_assoc _ 14 q, level, start, frameSegment_payload P hq, frameOffset_payload]
      exact ⟨rfl, by omega⟩

/-- Settles O30, by induction on the row. -/
theorem startTimesAreSumsOfDurations : Obligations.StartTimesAreSumsOfDurations :=
  fun P _ hs => segStart_eq_totalTicks P hs

/-- Settles O31: both are the calls of the string of symbols. -/
theorem callProcedureEqualsSegmentTable : Obligations.CallProcedureEqualsSegmentTable := by
  intro P
  refine ⟨calls_eq_segments P, ?_⟩
  have pair : List.length ∘ Segment.calls = Function.const Segment 2 := rfl
  rw [calls_eq_segments, List.length_flatten, List.map_map, pair, List.map_const, List.sum_replicate, segments,
    List.length_map, List.length_range]
  rfl

/-- Settles O33: the table ends where its last row does, and every bit is high for one half. -/
theorem totalsAreTheSameForEveryPayload : Obligations.TotalsAreTheSameForEveryPayload := by
  intro P
  have all : (segments P).take 756 = segments P := List.take_of_length_le (by simp [segments, nSegments])
  refine ⟨?_, highTicks_segments P⟩
  rw [← all, ← segStart_eq_totalTicks P le_rfl]
  rfl

/-- Settles O34: the duration of a row does not mention the payload, and its level does in a bit's rows only. -/
theorem dataSelectsOnlyPayloadLevels : Obligations.DataSelectsOnlyPayloadLevels := by
  intro P Q s
  refine ⟨segAt_duration_congr P Q s, (symbolAt_bit_or_segAt_eq P Q s).imp_left ?_⟩
  rintro ⟨b, k, hk, bit⟩
  rw [bit]
  cases b <;> interval_cases k <;> simp [bitSymbol]

/-- Settles O35. -/
theorem tickMachineFollowsTheSegmentTable : Obligations.TickMachineFollowsTheSegmentTable :=
  fun b _ _ hs hk => ticks_segStart_add b hs hk

/-- Settles O36: the last tick of segment 755 stops the block, and every tick before it is in some segment. -/
theorem transmissionEndsAfterItsTicks : Obligations.TransmissionEndsAfterItsTicks := by
  intro b
  rw [ticks_transmission]
  exact ⟨rfl, rfl, rfl, fun n hn => ticks_transmission_busy b hn⟩

/-- Settles O37: at `k` ticks into segment `s`, line and waveform both have the level of `s`. -/
theorem lineShowsTheWaveform : Obligations.LineShowsTheWaveform := by
  intro b n hn
  obtain ⟨s, hs, k, hk, rfl⟩ := exists_row (serialize b.fr) hn
  rw [tx_ticks_segStart_add b hs hk, wave_segStart_add _ hs hk]

/-- Settles O25: TRANSMIT's effect on an idle block, whose line then has segment 0's level. -/
theorem transmitStartsAtSegmentZero : Obligations.TransmitStartsAtSegmentZero := by
  refine ⟨fun arg => ?_, fun s idle => ⟨command_idle (·.startTransmission) idle, rfl⟩,
    fun s busy => command_busy (·.startTransmission) busy, by decide, by decide⟩
  obtain ⟨-, -, transmit, -⟩ := operandFormatsAreThoseOfR72.1 arg
  exact transmit

/-- Settles O26, by the tick step's branches. -/
theorem tickStepAndLineLevel : Obligations.TickStepAndLineLevel := by
  intro b
  have last (hr : b.rem = 1#16) : ¬1 < b.rem.toNat := by simp [hr]
  refine ⟨tick_idle, fun busy hr => ?_, fun busy hr hs => ?_, fun busy hr hs => ?_, tx_busy, tx_idle⟩
  · have rem_pred : b.rem - 1#16 = BitVec.ofNat 16 (b.rem.toNat - 1) := by bv_omega
    rw [tick_count busy hr, rem_pred]
  · have seg_succ : b.seg + 1#10 = BitVec.ofNat 10 (b.seg.toNat + 1) := by bv_omega
    rw [tick_advance busy (last hr) hs, seg_succ]; rfl
  · rw [tick_stop busy (last hr) (by omega)]; rfl

/-- Settles O50: time passes by the tick step, which every symbol's instruction is. -/
theorem stepRunsTheSymbolOnTheLine : Obligations.StepRunsTheSymbolOnTheLine := by
  intro s x k busy noReset _
  have elapsed : s.elapse.block.busy = true := busy
  simp only [exec_symbol]
  refine ⟨fun hc => ⟨step_nil noReset hc, fun rest hs => ?_, fun w rest hs => ?_, fun w rest hs => ?_,
    fun n rest hs => ?_, fun a rest hs noTime => ?_⟩, fun p hp => ⟨fun pause => ?_, fun pause hstage => ?_,
    fun pause hstage => ?_⟩⟩
  · rw [step_act noReset hc hs, act_wait_busy rest elapsed]
  · rw [step_act noReset hc hs]; exact hold_busy elapsed
  · rw [step_act noReset hc hs, act_offer_busy rest w elapsed]
  · rw [step_act noReset hc hs, act_pass_succ]
  · rw [step_act noReset hc hs]; exact act_of_no_time rest noTime
  · rw [step_call noReset hp, sendStep_paused pause]
  · rw [step_call noReset hp, sendStep_stage pause, sendStage_busy elapsed hstage]
  · rw [step_call noReset hp, sendStep_stage pause]; exact sendStage_persist hstage

end Sys2Proof.Machine

/-! Proofs of the statements about the host (`44_host_controller.md`). First operations that expand to commands; then
a SendControlCode step by step, stage by stage, and from its StoreRead to its StoreWrite; then the statements. -/

namespace Sys2Proof

/-! ## Operands that fit their field (R72, R171, R176) -/

theorem lowBits_setWidth {n : Nat} (x : BitVec n) (h : n ≤ 32) : (x.setWidth 32).extractLsb' 0 n = x := by
  rw [BitVec.extractLsb'_setWidth_of_le (by omega), BitVec.extractLsb'_eq_self]

end Sys2Proof

namespace Sys2Proof.Machine

/-- The block truncates SET_ROLLING's operand, and the host what it stores, to the next rolling code (R171, R174). -/
theorem trunc16_nextRolling (r : BitVec 16) : trunc16 (nextRolling r) = r + 1#16 := by
  rw [trunc16_eq_ofNat, nextRolling]
  bv_omega

/-! ## Operations that are their expansions (R85, R176) -/

/-- An action that expands to commands, none of which starts a transmission, takes a step for the expansion and one
for each command. -/
theorem run_expansion {s : State} {a : HostAction} {l : List (BitVec 59)} {rest : List HostAction}
    (expands : s.elapse.act rest a = .next (s.elapse.withScript (l.map .present ++ rest)))
    (hl : ∀ i ∈ l.map decodeCommand, StaysIdle i) (idle : s.block.busy = false) (hc : s.host.call = none)
    (hr : s.NoResetFor (l.length + 1)) (hs : s.host.script = a :: rest) :
    Host.Core.run core (l.length + 1) s = .next ⟨(l.map decodeCommand).foldl Block.accept s.block,
      { s.host with script := rest, resets := laterResets (l.length + 1) s.host.resets }⟩ := by
  have first := (step_act (noResetFor_rst hr) hc hs).trans expands
  rw [Nat.add_comm] at hr
  have commands := run_present (s := s.elapse.withScript (l.map .present ++ rest)) hl idle hc
    (noResetFor_later hr rfl) rfl
  rw [run_next first, commands, withScript_resets, elapse_resets, laterResets_add, Nat.add_comm 1]
  rfl

/-- The words of start-up's two commands. -/
def startUpWords : List (BitVec 59) :=
  [setWord 4#3 (Config.senderAddress.setWidth 32), setWord 1#3 (Config.counterInit.setWidth 32)]

/-- The words of SET_FRAME's four commands. -/
def setFrameWords (a c k r : BitVec 32) : List (BitVec 59) :=
  [setWord 4#3 a, setWord 1#3 c, setWord 2#3 k, setWord 3#3 r]

theorem startUpWords_staysIdle : ∀ i ∈ startUpWords.map decodeCommand, StaysIdle i := by
  simp [startUpWords, setAddress_staysIdle, setCounter_staysIdle]

theorem setFrameWords_staysIdle (a c k r : BitVec 32) :
    ∀ i ∈ (setFrameWords a c k r).map decodeCommand, StaysIdle i := by
  simp [setFrameWords, setAddress_staysIdle, setCounter_staysIdle, setControl_staysIdle, setRolling_staysIdle]

/-- Start-up writes the address and the counter, whose fields hold the parameters whole (R176). -/
theorem accept_startUpWords (b : Block) : (startUpWords.map decodeCommand).foldl Block.accept b =
    { b with fr := { b.fr with address := Config.senderAddress, counter := Config.counterInit } } := by
  have address : trunc24 (Config.senderAddress.setWidth 32) = Config.senderAddress := lowBits_setWidth _ (by decide)
  have counter : trunc4 (Config.counterInit.setWidth 32) = Config.counterInit := lowBits_setWidth _ (by decide)
  simp [startUpWords, Block.setAddress, Block.setCounter, address, counter]

/-- SET_FRAME writes all of `FR`, each field with its operand truncated (R85). -/
theorem accept_setFrameWords (a c k r : BitVec 32) (b : Block) :
    ((setFrameWords a c k r).map decodeCommand).foldl Block.accept b = { b with
      fr := ⟨BitVec.ofNat 4 c.toNat, BitVec.ofNat 4 k.toNat, BitVec.ofNat 16 r.toNat, BitVec.ofNat 24 a.toNat⟩ } := by
  simp [setFrameWords, Block.setAddress, Block.setCounter, Block.setControl, Block.setRolling, trunc4_eq_ofNat,
    trunc16_eq_ofNat, trunc24_eq_ofNat]

/-! ## A SendControlCode, step by step (R171, R177) -/

/-! What a stage does: it holds its command, ends its WAIT at an idle block, or writes the next rolling code. -/

theorem sendStage_command {s : State} {p : SendCall} {w : BitVec 59} (hw : p.command = some w) :
    s.sendStage p = s.hold w (s.withCall (some p.next)) := by
  simp only [State.sendStage, hw]

theorem sendStage_waitEnd {s : State} {p : SendCall} (idle : s.block.busy = false) (hstage : p.stage = .wait) :
    s.sendStage p = .next (s.withCall (some p.next)) := by
  simp [State.sendStage, SendCall.command, hstage, Block.cmdReady, idle]

theorem sendStage_storeWrite {s : State} {p : SendCall} (hstage : p.stage = .persist) :
    s.sendStage p = .next { s with host := { s.host.storeWrite (p.r + 1#16) with call := none } } := by
  simp [State.sendStage, SendCall.command, hstage, trunc16_nextRolling]

/-- `n` steps after `s`, its host in the SendControlCode `p` with `rest` to do after it, and the block `b`. -/
def State.inSend (s : State) (rest : List HostAction) (n : Nat) (b : Block) (p : SendCall) : State :=
  ⟨b, ⟨s.host.store, some p, rest, laterResets n s.host.resets⟩⟩

/-- A SendControlCode after `k` of the ticks before its stage. -/
def SendCall.pausedBy (p : SendCall) : Nat → SendCall
  | 0 => p
  | k + 1 => { p with pauses := (p.pause - (k + 1)) :: p.pauses.tail }

section
variable (p : SendCall) (k : Nat)

@[simp] theorem pausedBy_stage : (p.pausedBy k).stage = p.stage := by cases k <;> rfl
@[simp] theorem pausedBy_r : (p.pausedBy k).r = p.r := by cases k <;> rfl
@[simp] theorem pausedBy_command : (p.pausedBy k).command = p.command := by cases k <;> rfl
@[simp] theorem pausedBy_next : (p.pausedBy k).next = p.next := by cases k <;> rfl
@[simp] theorem pausedBy_pause : (p.pausedBy k).pause = p.pause - k := by cases k <;> rfl

theorem pausedBy_paused : (p.pausedBy k).paused = p.pausedBy (k + 1) := by cases k <;> rfl

end

theorem ticks_idle {b : Block} (idle : b.busy = false) (n : Nat) : b.ticks n = b := by
  induction n with
  | zero => rfl
  | succ n ih => rw [ticks_succ, ih, tick_idle idle]

section
variable {s : State} {rest : List HostAction} {N n : Nat} {b : Block} {p : SendCall}

theorem step_inSend (hr : s.NoResetFor N) (hn : n < N) :
    step (s.inSend rest n b p) = (s.inSend rest (n + 1) b p).sendStep p := by
  obtain ⟨m, rfl⟩ : ∃ m, N = n + (m + 1) := ⟨N - n - 1, by omega⟩
  have noReset := noResetFor_rst (noResetFor_later (t := s.inSend rest n b p) hr rfl)
  rw [step_call noReset rfl, State.inSend, State.inSend, ← laterResets_add]
  rfl

/-- While its ticks are not over, a SendControlCode lets one pass. -/
theorem step_inSend_pause (hr : s.NoResetFor N) (hn : n < N) (hp : p.pause ≠ 0) :
    step (s.inSend rest n b p) = .next (s.inSend rest (n + 1) b.tick p.paused) := by
  rw [step_inSend hr hn, sendStep_paused hp]; rfl

/-- Up to its WAIT it lets a busy block tick. -/
theorem step_inSend_busy (hr : s.NoResetFor N) (hn : n < N) (hp : p.pause = 0) (busy : b.busy = true)
    (hstage : p.stage ≠ .persist) :
    step (s.inSend rest n b p) = .next (s.inSend rest (n + 1) b.tick p) := by
  rw [step_inSend hr hn, sendStep_stage hp, sendStage_busy busy hstage]; rfl

/-- An idle block accepts the stage's command. -/
theorem step_inSend_command {w : BitVec 59} {f : Block → Block} (hr : s.NoResetFor N) (hn : n < N)
    (hp : p.pause = 0) (idle : b.busy = false) (hw : p.command = some w)
    (hf : commandEffect (decodeCommand w) = some f) :
    step (s.inSend rest n b p) = .next (s.inSend rest (n + 1) (f b) p.next) := by
  rw [step_inSend hr hn, sendStep_stage hp, sendStage_command hw, hold_idle idle, exec_of_commandEffect hf]
  exact command_idle (s := s.inSend rest (n + 1) b p.next) f idle

/-- WAIT ends at an idle block. -/
theorem step_inSend_wait (hr : s.NoResetFor N) (hn : n < N) (hp : p.pause = 0) (idle : b.busy = false)
    (hstage : p.stage = .wait) :
    step (s.inSend rest n b p) = .next (s.inSend rest (n + 1) b p.next) := by
  rw [step_inSend hr hn, sendStep_stage hp, sendStage_waitEnd idle hstage]; rfl

/-- StoreWrite is the last step (R174, R175). -/
theorem step_inSend_persist (hr : s.NoResetFor N) (hn : n < N) (hp : p.pause = 0) (hstage : p.stage = .persist) :
    step (s.inSend rest n b p) =
      .next ⟨b, ⟨p.r + 1#16, none, rest, laterResets (n + 1) s.host.resets⟩⟩ := by
  rw [step_inSend hr hn, sendStep_stage hp, sendStage_storeWrite hstage]; rfl

/-- The ticks that the host lets pass, and those that a busy block takes up to the end of WAIT. -/
theorem run_inSend_ticks (hr : s.NoResetFor N) {j : Nat} (hj : n + j ≤ N)
    (hticks : ∀ i < j, i < p.pause ∨ (b.ticks i).busy = true ∧ p.stage ≠ .persist) :
    Host.Core.run core j (s.inSend rest n b p) =
      .next (s.inSend rest (n + j) (b.ticks j) (p.pausedBy (min j p.pause))) := by
  induction j with
  | zero => rw [Nat.zero_min]; rfl
  | succ j ih =>
    rw [run_add (ih (by omega) fun i hi => hticks i (by omega)), ticks_succ]
    refine run_next (n := 0) ?_
    by_cases more : j < p.pause
    · rw [step_inSend_pause hr (by omega) (by rw [pausedBy_pause]; omega), pausedBy_paused, Nat.min_eq_left more.le,
        Nat.min_eq_left more]
      rfl
    · obtain ⟨busy, hstage⟩ := (hticks j (by omega)).resolve_left more
      rw [step_inSend_busy hr (by omega) (by rw [pausedBy_pause]; omega) busy (by simpa using hstage),
        Nat.min_eq_right (by omega), Nat.min_eq_right (by omega)]
      rfl

end

/-! ## Stage by stage -/

/-- `n` steps lead from `u` to `t`, and in every state before `t` the store holds `w` and `BUSY` is `β`. -/
def RunsWith (w : BitVec 16) (β : Bool) (n : Nat) (u t : State) : Prop :=
  Host.Core.run core n u = .next t ∧
  ∀ m < n, ∃ v : State, Host.Core.run core m u = .next v ∧ v.host.store = w ∧ v.block.busy = β

theorem RunsWith.of_step {w : BitVec 16} {β : Bool} {u t : State} (h : step u = .next t) (hw : u.host.store = w)
    (hβ : u.block.busy = β) : RunsWith w β 1 u t := by
  refine ⟨run_next (n := 0) h, fun m hm => ?_⟩
  obtain rfl : m = 0 := by omega
  exact ⟨u, rfl, hw, hβ⟩

theorem RunsWith.trans {w : BitVec 16} {β : Bool} {n m : Nat} {u v t : State} (first : RunsWith w β n u v)
    (second : RunsWith w β m v t) : RunsWith w β (n + m) u t := by
  obtain ⟨hv, before⟩ := first
  obtain ⟨ht, after⟩ := second
  refine ⟨(run_add hv).trans ht, fun i hi => ?_⟩
  by_cases early : i < n
  · exact before i early
  · obtain ⟨k, rfl⟩ := Nat.exists_eq_add_of_le (Nat.le_of_not_lt early)
    rw [run_add hv]
    exact after k (by omega)

section
variable {s : State} {rest : List HostAction} {N n : Nat} {b : Block} {p : SendCall}

/-- A stage at an idle block: the ticks before it, then its own step. -/
theorem runsWith_stage (hr : s.NoResetFor N) (hn : n + p.pause ≤ N) (idle : b.busy = false) {t : State}
    (last : step (s.inSend rest (n + p.pause) b (p.pausedBy p.pause)) = .next t) :
    RunsWith s.host.store false (p.pause + 1) (s.inSend rest n b p) t := by
  have ticks {j : Nat} (hj : j ≤ p.pause) := run_inSend_ticks (rest := rest) (n := n) (b := b) (p := p) (j := j) hr
    (by omega) fun i hi => .inl (by omega)
  simp only [ticks_idle idle] at ticks
  refine RunsWith.trans ⟨?_, fun m hm => ⟨_, ticks hm.le, rfl, idle⟩⟩ (.of_step last rfl idle)
  rw [ticks le_rfl, Nat.min_self]

theorem runsWith_command {w : BitVec 59} {f : Block → Block} (hr : s.NoResetFor N) (hn : n + p.pause < N)
    (idle : b.busy = false) (hw : p.command = some w) (hf : commandEffect (decodeCommand w) = some f) :
    RunsWith s.host.store false (p.pause + 1) (s.inSend rest n b p)
      (s.inSend rest (n + p.pause + 1) (f b) p.next) := by
  refine runsWith_stage hr hn.le idle ?_
  rw [step_inSend_command hr hn (by simp) idle (by simpa using hw) hf, pausedBy_next]

theorem runsWith_waitEnd (hr : s.NoResetFor N) (hn : n + p.pause < N) (idle : b.busy = false)
    (hstage : p.stage = .wait) :
    RunsWith s.host.store false (p.pause + 1) (s.inSend rest n b p)
      (s.inSend rest (n + p.pause + 1) b p.next) := by
  refine runsWith_stage hr hn.le idle ?_
  rw [step_inSend_wait hr hn (by simp) idle (by simpa using hstage), pausedBy_next]

theorem runsWith_storeWrite (hr : s.NoResetFor N) (hn : n + p.pause < N) (idle : b.busy = false)
    (hstage : p.stage = .persist) :
    RunsWith s.host.store false (p.pause + 1) (s.inSend rest n b p)
      ⟨b, ⟨p.r + 1#16, none, rest, laterResets (n + p.pause + 1) s.host.resets⟩⟩ := by
  refine runsWith_stage hr hn.le idle ?_
  rw [step_inSend_persist hr hn (by simp) (by simpa using hstage), pausedBy_r]

/-- A transmission's ticks, the host in its WAIT. -/
theorem runsWith_transmission (hr : s.NoResetFor N) (hn : n + 874720 ≤ N) (hstage : p.stage = .wait) :
    RunsWith s.host.store true 874720 (s.inSend rest n b.startTransmission p)
      (s.inSend rest (n + 874720) b.startTransmission.stopTransmission
        (p.pausedBy (min 874720 p.pause))) := by
  have ticks {j : Nat} (hj : j ≤ 874720) := run_inSend_ticks (rest := rest) (n := n) (b := b.startTransmission)
    (p := p) (j := j) hr (by omega) fun i hi => .inr ⟨ticks_transmission_busy b (by omega), by simp [hstage]⟩
  refine ⟨?_, fun m hm => ⟨_, ticks hm.le, rfl, ticks_transmission_busy b hm⟩⟩
  rw [ticks le_rfl, ticks_transmission]

end

/-! ## From StoreRead to StoreWrite -/

/-- The block with the frame that SEND sends: the code and the next rolling code, the other fields kept (R171). -/
def Block.withCode (b : Block) (code : ControlCode) (r : BitVec 16) : Block :=
  { b with fr := { b.fr with control := code.value, rolling := r + 1#16 } }

theorem setRolling_setControl (b : Block) (code : ControlCode) (r : BitVec 16) :
    (b.setControl (code.value.setWidth 32)).setRolling (nextRolling r) = b.withCode code r := by
  have control : trunc4 (code.value.setWidth 32) = code.value := lowBits_setWidth code.value (by decide)
  rw [Block.setRolling, Block.setControl, trunc16_nextRolling, control]
  rfl

theorem pause_drop (code : ControlCode) (r : BitVec 16) (stage : SendStage) (l : List Nat) (i : Nat) :
    SendCall.pause ⟨code, r, stage, l.drop i⟩ = l.getD i 0 := by
  simp [SendCall.pause, List.headD_eq_head?_getD, List.getD_eq_getElem?_getD]

theorem next_drop (code : ControlCode) (r : BitVec 16) (stage : SendStage) (l : List Nat) (i : Nat) :
    SendCall.next ⟨code, r, stage, l.drop i⟩ = ⟨code, r, stage.next, l.drop (i + 1)⟩ := by
  rw [SendCall.next, List.tail_drop]

theorem decodeCommand_transmitWord : decodeCommand transmitWord = .transmit := by
  simp [transmitWord, decodeCommand]

section
variable {s : State} {code : ControlCode} {pauses : List Nat} {rest : List HostAction} {a N : Nat}

/-- From SEND to TRANSMIT's acceptance: StoreRead, the two SETs and TRANSMIT, each at its time. -/
theorem runsWith_upToTransmit (hr : s.NoResetFor N) (hN : a ≤ N)
    (ha : a = pauses.getD 0 0 + pauses.getD 1 0 + pauses.getD 2 0 + 4) (idle : s.block.busy = false)
    (hc : s.host.call = none) (hs : s.host.script = .send code pauses :: rest) :
    RunsWith s.host.store false a s (s.inSend rest a (s.block.withCode code s.host.store).startTransmission
      ⟨code, s.host.store, .wait, pauses.drop 3⟩) := by
  have read : step s = .next (s.inSend rest 1 s.block ⟨code, s.host.store, .setControl, pauses.drop 0⟩) := by
    obtain ⟨m, rfl⟩ : ∃ m, N = m + 1 := ⟨N - 1, by omega⟩
    rw [step_act (noResetFor_rst hr) hc hs]; rfl
  have control := runsWith_command (rest := rest) (n := 1) (b := s.block)
    (p := ⟨code, s.host.store, .setControl, pauses.drop 0⟩) hr (by rw [pause_drop]; omega) idle rfl
    (congrArg commandEffect (decodeCommand_setControl _))
  have rolling := runsWith_command (rest := rest) (n := 1 + pauses.getD 0 0 + 1)
    (b := s.block.setControl (code.value.setWidth 32)) (p := ⟨code, s.host.store, .setRolling, pauses.drop 1⟩) hr
    (by rw [pause_drop]; omega) idle rfl (congrArg commandEffect (decodeCommand_setRolling _))
  have transmit := runsWith_command (rest := rest) (n := 1 + pauses.getD 0 0 + 1 + pauses.getD 1 0 + 1)
    (b := s.block.withCode code s.host.store) (p := ⟨code, s.host.store, .transmit, pauses.drop 2⟩) hr
    (by rw [pause_drop]; omega) idle rfl (congrArg commandEffect decodeCommand_transmitWord)
  simp only [pause_drop, next_drop, setRolling_setControl] at control rolling transmit
  obtain rfl : a = 1 + pauses.getD 0 0 + 1 + pauses.getD 1 0 + 1 + pauses.getD 2 0 + 1 := by omega
  exact (((RunsWith.of_step read rfl idle).trans control).trans rolling).trans transmit

/-- From TRANSMIT's acceptance to StoreWrite: the transmission's ticks, then, with `BUSY` fallen, what is left of the
ticks before WAIT's end, that end, and StoreWrite. -/
theorem runsWith_fromTransmit {b : Block} {p : SendCall} {n : Nat} (hr : s.NoResetFor N)
    (hn : n + max p.pause 874720 + 1 + p.next.pause + 1 = N) (hstage : p.stage = .wait) :
    ∃ u : State, RunsWith s.host.store true 874720 (s.inSend rest n b.startTransmission p) u ∧
      RunsWith s.host.store false (p.pause - 874720 + 1 + (p.next.pause + 1)) u
        ⟨b.startTransmission.stopTransmission, ⟨p.r + 1#16, none, rest, laterResets N s.host.resets⟩⟩ := by
  have left : (p.pausedBy (min 874720 p.pause)).pause = p.pause - 874720 := by
    rw [pausedBy_pause]; omega
  have waitEnd := runsWith_waitEnd (rest := rest) (n := n + 874720) (b := b.startTransmission.stopTransmission)
    (p := p.pausedBy (min 874720 p.pause)) hr (by omega) rfl (by simpa using hstage)
  have storeWrite := runsWith_storeWrite (rest := rest) (n := n + 874720 + (p.pause - 874720) + 1)
    (b := b.startTransmission.stopTransmission) (p := p.next) hr (by omega) rfl (by rw [next_stage, hstage]; rfl)
  rw [left, pausedBy_next] at waitEnd
  obtain rfl : n + 874720 + (p.pause - 874720) + 1 + p.next.pause + 1 = N := by omega
  exact ⟨_, runsWith_transmission hr (by omega) hstage, waitEnd.trans storeWrite⟩

end

/-- An idle phase, a busy one and an idle one, one after another. -/
theorem RunsWith.busy_between {w : BitVec 16} {a d c : Nat} {s t u v : State} (before : RunsWith w false a s t)
    (sending : RunsWith w true d t u) (after : RunsWith w false c u v) :
    Host.Core.run core (a + d + c) s = .next v ∧
    ∀ m < a + d + c, ∃ x : State, Host.Core.run core m s = .next x ∧ x.host.store = w ∧
      (x.block.busy = true ↔ a ≤ m ∧ m < a + d) := by
  obtain ⟨ht, hbefore⟩ := before
  obtain ⟨hu, hsending⟩ := sending
  obtain ⟨hv, hafter⟩ := after
  rw [Nat.add_assoc]
  refine ⟨(run_add ht).trans ((run_add hu).trans hv), fun m hm => ?_⟩
  by_cases early : m < a
  · obtain ⟨x, hx, store, busy⟩ := hbefore m early
    exact ⟨x, hx, store, iff_of_false (by simp [busy]) (by omega)⟩
  obtain ⟨k, rfl⟩ := Nat.exists_eq_add_of_le (Nat.le_of_not_lt early)
  by_cases middle : k < d
  · obtain ⟨x, hx, store, busy⟩ := hsending k middle
    exact ⟨x, (run_add ht).trans hx, store, iff_of_true busy (by omega)⟩
  · obtain ⟨i, rfl⟩ := Nat.exists_eq_add_of_le (Nat.le_of_not_lt middle)
    obtain ⟨x, hx, store, busy⟩ := hafter i (by omega)
    exact ⟨x, (run_add ht).trans ((run_add hu).trans hx), store, iff_of_false (by simp [busy]) (by omega)⟩

/-- A transmission leaves the sequencer as an idle block has it, and `PB` the frame that was sent (R26, R27, R148). -/
theorem stopTransmission_startTransmission {b : Block} (idle : b.busy = false) (hseg : b.seg = 0#10)
    (hrem : b.rem = 0#16) : b.startTransmission.stopTransmission = { b with pb := serialize b.fr } := by
  simp [Block.ext_iff, idle, hseg, hrem]

/-! ## The statements -/

/-- Settles O59: up to TRANSMIT the block is idle, then it is busy for the transmission's ticks, then idle again up to
StoreWrite. -/
theorem sendTransmitsTheNextRollingCode : Obligations.SendTransmitsTheNextRollingCode := by
  intro s code pauses rest a n idle hseg hrem hc hs ha hn hr
  have before := runsWith_upToTransmit hr (by omega) ha idle hc hs
  have wait := pause_drop code s.host.store .wait pauses 3
  have write : SendCall.pause (SendCall.next ⟨code, s.host.store, .wait, pauses.drop 3⟩) = pauses.getD 4 0 := by
    rw [next_drop, pause_drop]
  obtain ⟨u, sending, after⟩ := runsWith_fromTransmit (rest := rest) (n := a)
    (b := s.block.withCode code s.host.store) (p := ⟨code, s.host.store, .wait, pauses.drop 3⟩) hr (by omega) rfl
  have stopped := stopTransmission_startTransmission (b := s.block.withCode code s.host.store) idle hseg hrem
  have run := before.busy_between sending after
  have total : a + 874720 + (pauses.getD 3 0 - 874720 + 1 + (pauses.getD 4 0 + 1)) = n := by omega
  rw [stopped, wait, write, total] at run
  exact run

/-- Settles O60: the commands of each expansion, and WAIT at a busy and at an idle block. -/
theorem hostOperationsAreTheirExpansions : Obligations.HostOperationsAreTheirExpansions := by
  refine ⟨fun s rest idle hc hr hs => ?_, fun s a c k r rest idle hc hr hs => ?_,
    fun s rest noReset hc hs => ⟨fun busy => ?_, fun idle => ?_⟩⟩
  · have run := run_expansion (l := startUpWords) rfl startUpWords_staysIdle idle hc hr hs
    rw [accept_startUpWords] at run
    exact run
  · have run := run_expansion (l := setFrameWords a c k r) rfl (setFrameWords_staysIdle a c k r) idle hc hr hs
    rw [accept_setFrameWords] at run
    exact run
  · rw [step_act noReset hc hs, act_wait_busy]; exact busy
  · rw [step_act noReset hc hs, act_wait_idle]; exact idle

end Sys2Proof.Machine

/-! Proof of the statement about the exception (`60_exceptions.md`): a payload's last byte read in the operand of
DESERIALIZE, then the statement. -/

namespace Sys2Proof.Machine

/-! ## The nibbles of the last byte in the operand (R118, R180) -/

theorem hiNibble_ofVec_b6 (p : BitVec 56) : hiNibble (Buf.ofVec p).b6 = p.extractLsb' 4 4 :=
  extract_nibble p (n := 0) (m := 4) (by decide)

theorem loNibble_ofVec_b6 (p : BitVec 56) : loNibble (Buf.ofVec p).b6 = p.extractLsb' 0 4 :=
  extract_nibble p (n := 0) (m := 0) (by decide)

/-- R180's cause, in the operand of DESERIALIZE. -/
theorem deserialize_ofVec_eq_error {p : BitVec 56} :
    deserialize (Buf.ofVec p) = .error .invalidChecksum ↔ p.extractLsb' 4 4 ≠ p.extractLsb' 0 4 := by
  rw [deserialize_eq_error, hiNibble_ofVec_b6, loNibble_ofVec_b6]

theorem exists_deserialize_ofVec_eq_ok {p : BitVec 56} :
    (∃ F, deserialize (Buf.ofVec p) = .ok F) ↔ p.extractLsb' 4 4 = p.extractLsb' 0 4 := by
  rw [exists_deserialize_eq_ok, hiNibble_ofVec_b6, loNibble_ofVec_b6]

/-! ## The statement -/

/-- Settles O17: the exception leaves the block idle, so the next DESERIALIZE is taken in turn, and of all instructions
only a DESERIALIZE writes `CE`. -/
theorem invalidChecksumIsTaken : Obligations.InvalidChecksumIsTaken := by
  intro p s idle nibbles
  have raised := exec_deserialize_error idle (deserialize_ofVec_eq_error.mpr nibbles)
  refine ⟨raised, by simp [Block.cmdReady, idle], rfl, fun q equal => ?_, fun i t u error other h => ?_⟩
  · obtain ⟨F, accepted⟩ := exists_deserialize_ofVec_eq_ok.mpr equal
    have taken := exec_deserialize_ok (s := s.withBlock { s.block with dv := false, ce := true }) idle accepted
    exact ⟨_, (execAll_cons _ raised).trans (execAll_cons _ taken), rfl, rfl⟩
  · obtain ⟨-, -, kept⟩ := exec_keeps_decode_registers h other
    exact kept.trans error

end Sys2Proof.Machine

/-! Proofs of the statements about reset and hazards (`70_reset_and_hazards.md`). First reset steps, one after another
and inside a SEND's transmission; then the ticks that a transmission has left; then words that wait on the port; then
steps that go on; then the statements. -/

namespace Sys2Proof

/-! ## The table ends with the transmission (R142, R151) -/

theorem segStart_le_tTotal {s : Nat} (hs : s ≤ 756) : segStart s ≤ tTotal := by
  have mono : segStart s ≤ segStart 756 := by
    induction hs using Nat.decreasingInduction with
    | self => exact le_rfl
    | of_succ s hs ih =>
      rw [segStart_succ (Buf.ofVec 0#56) hs] at ih
      omega
  exact mono

end Sys2Proof

namespace Sys2Proof.Machine

/-! ## Reset, for as long as it is held, and inside a transmission (R200, R202) -/

theorem rst_of_resets {s : State} {l : List Nat} (h : s.host.resets = 0 :: l) : s.rst = true := by
  simp [State.rst, h]

/-- While `rst` is held every step is the reset step. -/
theorem run_reset {n : Nat} {s : State} {rest : List Nat}
    (h : s.host.resets = List.replicate (n + 1) 0 ++ rest) :
    ∃ t : State, Host.Core.run core (n + 1) s = .next t ∧ t.block = Block.reset ∧
      t.host.store = s.host.store ∧ t.host.resets = rest := by
  induction n generalizing s with
  | zero => exact ⟨_, run_next (n := 0) (step_reset (rst_of_resets h)), rfl, rfl, by rw [resetStep_resets, h]; rfl⟩
  | succ n ih =>
    obtain ⟨t, run, block, store, resets⟩ := ih (s := s.resetStep) (by rw [resetStep_resets, h]; rfl)
    exact ⟨t, (run_next (step_reset (rst_of_resets h))).trans run, block, store, resets⟩

theorem noResetFor_of_resets {s : State} {n : Nat} {l : List Nat} (h : s.host.resets = n :: l) :
    s.NoResetFor n := by
  intro k rest e
  obtain ⟨rfl, -⟩ := List.cons.inj (h.symm.trans e)
  exact le_rfl

theorem State.NoResetFor.mono {s : State} {n m : Nat} (h : s.NoResetFor m) (le : n ≤ m) : s.NoResetFor n :=
  fun k rest e => le.trans (h k rest e)

section
variable {s : State} {n : Nat} {l : List Nat} {rest : List HostAction} {b : Block} {p : SendCall}

/-- A reset that was `n` steps away is due after `n` steps of a SEND. -/
theorem inSend_rst (h : s.host.resets = n :: l) : (s.inSend rest n b p).rst = true :=
  rst_of_resets (l := l) (by simp [State.inSend, laterResets, h])

/-- A SEND whose WAIT a reset cuts short is over: it writes nothing and leaves the other actions (R175, R202;
log 17). -/
theorem step_inSend_reset (h : s.host.resets = n :: l) (hstage : p.stage = .wait) (busy : b.busy = true) :
    step (s.inSend rest n b p) = .next ⟨Block.reset, ⟨s.host.store, none, rest, l⟩⟩ := by
  have unsent : p.sent b = false := by simp [SendCall.sent, hstage, Block.cmdReady, busy]
  have silent : p.word = none := by simp [SendCall.word, SendCall.command, hstage]
  rw [step_reset (inSend_rst h)]
  simp [State.resetStep, State.inSend, HostSide.afterReset, unsent, silent, laterResets, h]

end

/-- A SEND from an idle block, `n` ticks into its transmission: the host is in its WAIT (R171). -/
theorem run_send_transmitting {s : State} {code : ControlCode} {pauses : List Nat} {rest : List HostAction}
    {n m : Nat} (hr : s.NoResetFor m) (hn : n < 874720)
    (hm : m = pauses.getD 0 0 + pauses.getD 1 0 + pauses.getD 2 0 + 4 + n) (idle : s.block.busy = false)
    (hc : s.host.call = none) (hs : s.host.script = .send code pauses :: rest) :
    ∃ p : SendCall, p.stage = .wait ∧ Host.Core.run core m s =
      .next (s.inSend rest m ((s.block.withCode code s.host.store).startTransmission.ticks n) p) := by
  subst hm
  obtain ⟨accepted, -⟩ := runsWith_upToTransmit hr (by omega) rfl idle hc hs
  refine ⟨_, ?_, (run_add accepted).trans (run_inSend_ticks hr le_rfl fun i hi => .inr ⟨?_, nofun⟩)⟩
  · rw [pausedBy_stage]
  · exact ticks_transmission_busy _ (hi.trans hn)

/-- StoreRead is a SEND's first step, and reads the store (R171, R172). -/
theorem step_send {s : State} {code : ControlCode} {l : List Nat} {rest : List HostAction} (noReset : s.rst = false)
    (hc : s.host.call = none) (hs : s.host.script = .send code l :: rest) :
    step s = .next ((s.elapse.withScript rest).withCall (some ⟨code, s.host.store, .setControl, l⟩)) :=
  step_act noReset hc hs

/-! ## What is left of a transmission (R148, R214) -/

theorem Block.Inv.ticks {b : Block} (h : b.Inv) (n : Nat) : (b.ticks n).Inv := by
  induction n with
  | zero => exact h
  | succ n ih => rw [ticks_succ]; exact ih.tick

theorem remaining_idle {b : Block} (idle : b.busy = false) : b.remaining = 0 := by simp [Block.remaining, idle]

theorem remaining_busy {b : Block} (busy : b.busy = true) :
    b.remaining = tTotal - segStart (b.seg.toNat + 1) + b.rem.toNat := by simp [Block.remaining, busy]

/-- A transmission runs as long as it has ticks left: `REM` is not 0 (R27). -/
theorem Block.Inv.busy_iff_remaining {b : Block} (h : b.Inv) : b.busy = true ↔ 0 < b.remaining := by
  cases busy : b.busy with
  | false => simp [remaining_idle busy]
  | true =>
    obtain ⟨-, hrem, -⟩ := h.running busy
    rw [remaining_busy busy]
    exact iff_of_true rfl (by omega)

/-- A tick step takes one tick off what is left, in its segment, into the next, and at the end (R147). -/
theorem Block.Inv.remaining_tick {b : Block} (h : b.Inv) : b.tick.remaining = b.remaining - 1 := by
  obtain ⟨idle, e⟩ | ⟨busy, hr, e⟩ | ⟨busy, hr, hs, e⟩ | ⟨busy, hr, hs, e⟩ := tick_cases b
  · rw [e, remaining_idle idle]
  · have rem : (b.rem - 1#16).toNat = b.rem.toNat - 1 := by bv_omega
    rw [e, remaining_busy busy, remaining_busy (b := { b with rem := b.rem - 1#16 }) busy, rem,
      Nat.add_sub_assoc (by omega)]
  · obtain ⟨-, hrem, -⟩ := h.running busy
    have seg : (b.seg + 1#10).toNat = b.seg.toNat + 1 := by bv_omega
    obtain ⟨-, upper⟩ := segAt_duration_bounds b.pb (s := b.seg.toNat + 1) (by omega)
    have rem : (BitVec.ofNat 16 (segAt b.pb (b.seg.toNat + 1)).duration).toNat =
        (segAt b.pb (b.seg.toNat + 1)).duration := Nat.mod_eq_of_lt (by omega)
    have start := segStart_succ b.pb (s := b.seg.toNat + 1) (by omega)
    have within := segStart_le_tTotal (s := b.seg.toNat + 1 + 1) (by omega)
    rw [e, remaining_busy busy, remaining_busy (b := b.enterSegment _ _) busy, enterSegment_seg, enterSegment_rem,
      seg, rem]
    omega
  · obtain ⟨hseg, hrem, -⟩ := h.running busy
    have last : b.seg.toNat + 1 = 756 := by omega
    have all : segStart 756 = tTotal := rfl
    rw [e, remaining_busy busy, remaining_idle rfl, last, all]
    omega

theorem Block.Inv.remaining_ticks {b : Block} (h : b.Inv) (n : Nat) : (b.ticks n).remaining = b.remaining - n := by
  induction n with
  | zero => rfl
  | succ n ih => rw [ticks_succ, (h.ticks n).remaining_tick, ih, Nat.sub_sub]

theorem Block.Inv.busy_ticks_iff {b : Block} (h : b.Inv) (n : Nat) :
    (b.ticks n).busy = true ↔ n < b.remaining := by
  rw [(h.ticks n).busy_iff_remaining, h.remaining_ticks, Nat.sub_pos_iff_lt]

/-! ## Words that wait on the port (R177, R205) -/

theorem portWord_present {s : State} {w : BitVec 59} {rest : List HostAction} (hc : s.host.call = none)
    (hs : s.host.script = .present w :: rest) : s.portWord = some w := by
  simp [State.portWord, hc, hs]

/-- While the host lets ticks pass the port is empty. -/
theorem portWord_pass {s : State} {n : Nat} {rest : List HostAction} (hc : s.host.call = none)
    (hs : s.host.script = .pass n :: rest) : s.portWord = none := by
  simp [State.portWord, hc, hs]

/-- A word on the port is a SendControlCode's, or the host's next action presents or offers it. -/
theorem portWord_cases {s : State} {w : BitVec 59} (h : s.portWord = some w) :
    (∃ p, s.host.call = some p ∧ p.word = some w) ∨
    (s.host.call = none ∧ ∃ rest, s.host.script = .present w :: rest) ∨
    (s.host.call = none ∧ ∃ rest, s.host.script = .offer w :: rest) := by
  unfold State.portWord at h
  split at h
  · next p hc => exact .inl ⟨p, hc, h⟩
  · next hc =>
    split at h
    · next v rest hs => cases h; exact .inr (.inl ⟨hc, rest, hs⟩)
    · next v rest hs => cases h; exact .inr (.inr ⟨hc, rest, hs⟩)
    · cases h

/-- A busy block lets a held word wait, in the tick step (R205; log 6). -/
theorem step_present_busy {s : State} {w : BitVec 59} {rest : List HostAction} (noReset : s.rst = false)
    (busy : s.block.busy = true) (hc : s.host.call = none) (hs : s.host.script = .present w :: rest) :
    step s = .next s.elapse.tick := by
  rw [step_act noReset hc hs]
  exact hold_busy (s := s.elapse) busy

theorem step_offer_busy {s : State} {w : BitVec 59} {rest : List HostAction} (noReset : s.rst = false)
    (busy : s.block.busy = true) (hc : s.host.call = none) (hs : s.host.script = .offer w :: rest) :
    step s = .next (s.elapse.tick.withScript (.pass 1 :: rest)) := by
  rw [step_act noReset hc hs]
  exact act_offer_busy (s := s.elapse) rest w busy

/-- A SendControlCode's word waits too, whichever stage's it is. -/
theorem step_call_busy {s : State} {p : SendCall} {w : BitVec 59} (noReset : s.rst = false)
    (busy : s.block.busy = true) (hc : s.host.call = some p) (hw : p.word = some w) :
    step s = .next s.elapse.tick := by
  obtain ⟨hpause, hcommand⟩ := word_some hw
  have hstage : p.stage ≠ .persist := fun e => by simp [SendCall.command, e] at hcommand
  rw [step_call noReset hc, sendStep_stage hpause]
  exact sendStage_busy (s := s.elapse) busy hstage

/-- A word is held for as long as the block ticks. -/
theorem run_present_busy {n : Nat} {s : State} {w : BitVec 59} {rest : List HostAction} (hr : s.NoResetFor n)
    (busy : ∀ i < n, (s.block.ticks i).busy = true) (hc : s.host.call = none)
    (hs : s.host.script = .present w :: rest) :
    Host.Core.run core n s =
      .next ⟨s.block.ticks n, { s.host with resets := laterResets n s.host.resets }⟩ := by
  induction n generalizing s with
  | zero => rw [laterResets_zero]; rfl
  | succ n ih =>
    have first := step_present_busy (noResetFor_rst hr) (busy 0 n.succ_pos) hc hs
    rw [Nat.add_comm] at hr
    have later := ih (s := s.elapse.tick) (noResetFor_later hr rfl) (fun i hi => busy (i + 1) (by omega)) hc hs
    rw [run_next first, later, tick_host, elapse_resets, laterResets_add, Nat.add_comm 1]
    rfl

/-- A reset leaves the word that it finds on the port, or none (R177, R185; log 17). -/
theorem portWord_resetStep {s : State} {w : BitVec 59} (h : s.portWord = some w) :
    s.resetStep.portWord = some w ∨ s.resetStep.portWord = none := by
  obtain ⟨p, hc, hw⟩ | ⟨hc, rest, hs⟩ | ⟨hc, rest, hs⟩ := portWord_cases h
  · have returned : s.resetStep.host.call = none := by simp [hc, sent_of_word hw]
    have script : s.resetStep.host.script = .pass 1 :: s.host.script := by
      simp [State.resetStep, HostSide.afterReset, hc, hw]
    exact .inr (portWord_pass returned script)
  · exact .inl (by simp [State.portWord, State.resetStep, HostSide.afterReset, hc, hs])
  · exact .inr (by simp [State.portWord, State.resetStep, HostSide.afterReset, hc, hs])

/-- A step of a busy block leaves the word that waits on the port, or none (R177, R205). -/
theorem portWord_step_busy {s t : State} {w : BitVec 59} (h : s.portWord = some w) (noReset : s.rst = false)
    (busy : s.block.busy = true) (hstep : step s = .next t) : t.portWord = some w ∨ t.portWord = none := by
  obtain ⟨p, hc, hw⟩ | ⟨hc, rest, hs⟩ | ⟨hc, rest, hs⟩ := portWord_cases h
  · rw [step_call_busy noReset busy hc hw] at hstep; cases hstep
    exact .inl h
  · rw [step_present_busy noReset busy hc hs] at hstep; cases hstep
    exact .inl h
  · rw [step_offer_busy noReset busy hc hs] at hstep; cases hstep
    exact .inr (portWord_pass (n := 1) (rest := rest) hc rfl)

/-- A word on the port is accepted unless the block is busy or `rst` is asserted (R206). -/
theorem not_accepting_cases {s : State} {w : BitVec 59} (h : s.portWord = some w) (waits : s.accepting = false) :
    s.rst = true ∨ s.rst = false ∧ s.block.busy = true := by
  cases hr : s.rst with
  | true => exact .inl rfl
  | false =>
    simp only [State.accepting, State.cmdValid, h, Block.cmdReady, hr] at waits
    exact .inr ⟨rfl, by simpa using waits⟩

/-! ## Steps that go on (R80, R214) -/

theorem exec_goes_on (i : Instr) (s : State) : ∃ t, exec i s = .next t := by
  have outcome := exec_outcome i s
  generalize exec i s = o at outcome ⊢
  cases outcome with
  | tick | command | frame => exact ⟨_, rfl⟩

theorem hold_goes_on (s d : State) (w : BitVec 59) : ∃ t, s.hold w d = .next t := by
  cases hb : s.block.busy with
  | false => rw [hold_idle hb]; exact exec_goes_on _ d
  | true => exact ⟨_, hold_busy hb⟩

theorem sendStage_goes_on (s : State) (p : SendCall) : ∃ t, s.sendStage p = .next t := by
  cases hstage : p.stage with
  | setControl | setRolling | transmit =>
    have hw : p.command.isSome := by simp [SendCall.command, hstage]
    rw [sendStage_command (Option.some_get hw).symm]
    exact hold_goes_on _ _ _
  | wait =>
    cases hb : s.block.busy with
    | false => exact ⟨_, sendStage_waitEnd hb hstage⟩
    | true => exact ⟨_, sendStage_busy hb (by simp [hstage])⟩
  | persist => exact ⟨_, sendStage_storeWrite hstage⟩

theorem sendStep_goes_on (s : State) (p : SendCall) : ∃ t, s.sendStep p = .next t := by
  by_cases hpause : p.pause = 0
  · rw [sendStep_stage hpause]; exact sendStage_goes_on s p
  · exact ⟨_, sendStep_paused hpause⟩

/-- A 56-bit word is taken up exactly if it is a plain buffer (R73; log 8). -/
theorem act_frame_goes_on_iff (s : State) (rest : List HostAction) (w : BitVec 56) :
    (∃ t, s.act rest (.frame w) = .next t) ↔ w.extractLsb' 52 4 = 0xA#4 := by
  rw [State.act]
  refine ⟨fun ⟨t, h⟩ => ?_, fun hA => ?_⟩
  · cases e : decode (.plain w) with
    | ok i => exact (decode_plain_eq_ok.mp e).1
    | error e' => rw [issue_error e] at h; cases h
  · rw [issue_ok (decode_plain_eq_ok.mpr ⟨hA, rfl⟩)]
    exact exec_goes_on _ _

/-- Every other action of the host goes on. -/
theorem act_goes_on (s : State) (rest : List HostAction) {a : HostAction} (ha : ∀ w, a ≠ .frame w) :
    ∃ t, s.act rest a = .next t := by
  cases a with
  | present w => exact hold_goes_on s _ w
  | offer w =>
    cases hb : s.block.busy with
    | false =>
      rw [State.act, if_pos (by simp [Block.cmdReady, hb]), issue_command]
      exact exec_goes_on _ _
    | true => exact ⟨_, act_offer_busy rest w hb⟩
  | frame w => exact absurd rfl (ha w)
  | pass n =>
    cases n with
    | zero => exact ⟨_, rfl⟩
    | succ n => exact ⟨_, act_pass_succ s rest n⟩
  | wait =>
    cases hb : s.block.busy with
    | false => exact ⟨_, act_wait_idle rest hb⟩
    | true => exact ⟨_, act_wait_busy rest hb⟩
  | startUp | setFrame | send => exact ⟨_, rfl⟩

/-! ## The statements -/

/-- Settles O1: every step of the held reset leaves the reset block and the store. -/
theorem resetHoldsZeroWhileAsserted : Obligations.ResetHoldsZeroWhileAsserted := by
  intro s n rest h
  obtain ⟨t, run, block, store, resets⟩ := run_reset h
  refine ⟨t, run, ?_⟩
  rw [block]
  exact ⟨rfl, rfl, rfl, rfl, rfl, rfl, rfl, rfl, rfl, rfl, store, resets⟩

/-- Settles O3: the reset meets the SEND in its WAIT, the block in its transmission. -/
theorem resetAbandonsASend : Obligations.ResetAbandonsASend := by
  intro s code pauses n m rest rs hn idle hc hs hm hresets
  obtain ⟨p, hstage, run⟩ := run_send_transmitting (noResetFor_of_resets hresets) hn hm idle hc hs
  have busy := ticks_transmission_busy (s.block.withCode code s.host.store) hn
  exact ⟨_, _, run, busy, inSend_rst hresets, rfl, step_inSend_reset hresets hstage busy, rfl, rfl, rfl,
    fun code' l more next noReset => ⟨_, step_send noReset rfl next, rfl⟩⟩

/-- Settles O39: what is left goes down by one with every tick. -/
theorem everyTransmissionTerminates : Obligations.EveryTransmissionTerminates := by
  intro b h _
  refine ⟨?_, fun n hn => (h.busy_ticks_iff n).mpr hn⟩
  rw [← Bool.not_eq_true, h.busy_ticks_iff]
  exact lt_irrefl _

/-- Settles O51: commands by the layer's one operation, symbols and wire frames by theirs. -/
theorem commandsAndSymbolsWaitTheirTurn : Obligations.CommandsAndSymbolsWaitTheirTurn := by
  refine ⟨fun x s _ => exec_symbol x s, fun s v p F k busy => ⟨?_, ?_⟩⟩
  · intro i hi
    obtain ⟨f, hf⟩ : ∃ f, commandEffect i = some f := by
      simp only [List.mem_cons, List.not_mem_nil, or_false] at hi
      rcases hi with rfl | rfl | rfl | rfl | rfl | rfl | rfl | rfl <;> exact ⟨_, rfl⟩
    rw [exec_of_commandEffect hf, command_busy f busy]
  · obtain ⟨hfr, hpb, hdf, hdv, hce⟩ := tick_frame s.block
    exact ⟨hfr, hpb, hdf, hdv, hce, _, exec_of_wireFields (wireFields_ctrlInstr F k) s, rfl⟩

/-- Settles O52: the held word outlasts the transmission's ticks, and an idle block accepts it; no step that does not
accept the word on the port puts another there. -/
theorem heldCommandsWaitAndWithdrawnOnesAreLost : Obligations.HeldCommandsWaitAndWithdrawnOnesAreLost := by
  refine ⟨fun s w rest busy noReset hc => ⟨?_, fun hs => ⟨?_, ?_⟩, fun hs inv hr => ?_, ?_⟩,
    fun s t w h waits hstep => ?_⟩
  · simp [Block.cmdReady, busy]
  · exact step_present_busy noReset busy hc hs
  · exact portWord_present hc hs
  · obtain ⟨ends, before⟩ := everyTransmissionTerminates s.block inv busy
    have run := run_present_busy (hr.mono (Nat.le_succ _)) before hc hs
    exact ⟨_, run, ends, portWord_present hc hs,
      step_present (noResetFor_rst (noResetFor_later (m := 1) hr rfl)) ends hc hs⟩
  · exact step_offer_busy noReset busy hc
  · obtain reset | ⟨noReset, busy⟩ := not_accepting_cases h waits
    · rw [step_reset reset] at hstep; cases hstep
      exact portWord_resetStep h
    · exact portWord_step_busy h noReset busy hstep

/-- Settles O56, by what the step is for: reset, a SendControlCode, nothing to do, or an action of the host. -/
theorem everyStepGoesOn : Obligations.EveryStepGoesOn := by
  intro s
  cases hr : s.rst with
  | true => exact iff_of_true ⟨_, step_reset hr⟩ (by simp)
  | false =>
    cases hc : s.host.call with
    | some p =>
      refine iff_of_true ?_ (by simp)
      rw [step_call hr hc]
      exact sendStep_goes_on _ p
    | none =>
      cases hs : s.host.script with
      | nil => exact iff_of_true ⟨_, step_nil hr hc hs⟩ (by simp)
      | cons a rest =>
        rw [step_act hr hc hs]
        by_cases ha : ∃ w, a = .frame w
        · obtain ⟨w, rfl⟩ := ha
          rw [act_frame_goes_on_iff]
          simp
        · rw [not_exists] at ha
          exact iff_of_true (act_goes_on _ rest ha) (by simpa using fun w h => absurd h (ha w))

end Sys2Proof.Machine
